-- ==== Sys2Proof/Word.lean ====
section
/-! DEFINITION. The words of the go51 CORE (`00_scope.md` R7, R9) and the operand fields of an opcode
byte (`30_encoding.md` R105, R106, R111). -/
namespace Sys2Proof

/-- A byte: A, B, SP, PSW, a cell of any memory, an instruction byte. -/
abbrev Byte := BitVec 8

/-- A 16-bit word: PC and DPTR. -/
abbrev Word := BitVec 16

/-- `n` of an `Rn` operand, `op[2:0]`. -/
abbrev RegIndex := BitVec 3

/-- `i` of an `@Ri` operand, `op[0]`. -/
abbrev PtrIndex := BitVec 1

/-- `addr11` of `AJMP` and `ACALL`. -/
abbrev PageOffset := BitVec 11

end Sys2Proof
end

