-- ==== Sys2Proof/Syntax.lean ====
section
/-! DEFINITION. The instruction set as syntax: one constructor for each of the 112 rows of
spec/opcode_table.json (`30_encoding.md` R120), named after the row's mnemonic and operands.

Operand fields (`30_encoding.md` R105 to R115): `n` selects `Rn`, `i` selects `@Ri`, `d` (`src`,
`dst`) is a direct address, `k` an immediate, `e` a relative displacement, `b` a bit address, `a` a
code address (11 bits of a page offset, or 16 bits). Every field's type holds exactly the values its
encoding admits (R122: operand bytes have no reserved values). -/
namespace Sys2Proof

/-- An instruction form with its operands. -/
inductive Instr where
  -- 40_arithmetic.md
  /-- `ADD A,Rn`, R142. -/
  | addARn (n : RegIndex)
  /-- `ADD A,direct`, R143. -/
  | addADirect (d : Byte)
  /-- `ADD A,@Ri`, R144. -/
  | addAInd (i : PtrIndex)
  /-- `ADD A,#data`, R145. -/
  | addAImm (k : Byte)
  /-- `ADDC A,Rn`, R146. -/
  | addcARn (n : RegIndex)
  /-- `ADDC A,direct`, R147. -/
  | addcADirect (d : Byte)
  /-- `ADDC A,@Ri`, R148. -/
  | addcAInd (i : PtrIndex)
  /-- `ADDC A,#data`, R149. -/
  | addcAImm (k : Byte)
  /-- `SUBB A,Rn`, R150. -/
  | subbARn (n : RegIndex)
  /-- `SUBB A,direct`, R151. -/
  | subbADirect (d : Byte)
  /-- `SUBB A,@Ri`, R152. -/
  | subbAInd (i : PtrIndex)
  /-- `SUBB A,#data`, R153. -/
  | subbAImm (k : Byte)
  /-- `INC A`, R154. -/
  | incA
  /-- `INC Rn`, R155. -/
  | incRn (n : RegIndex)
  /-- `INC direct`, R156. -/
  | incDirect (d : Byte)
  /-- `INC @Ri`, R157. -/
  | incInd (i : PtrIndex)
  /-- `INC DPTR`, R158. -/
  | incDptr
  /-- `DEC A`, R159. -/
  | decA
  /-- `DEC Rn`, R160. -/
  | decRn (n : RegIndex)
  /-- `DEC direct`, R161. -/
  | decDirect (d : Byte)
  /-- `DEC @Ri`, R162. -/
  | decInd (i : PtrIndex)
  /-- `MUL AB`, R163. -/
  | mulAB
  /-- `DIV AB`, R164. -/
  | divAB
  /-- `DA A`, R165. -/
  | daA
  -- 41_logical.md
  /-- `ANL A,Rn`, R171. -/
  | anlARn (n : RegIndex)
  /-- `ANL A,direct`, R172. -/
  | anlADirect (d : Byte)
  /-- `ANL A,@Ri`, R173. -/
  | anlAInd (i : PtrIndex)
  /-- `ANL A,#data`, R174. -/
  | anlAImm (k : Byte)
  /-- `ANL direct,A`, R175. -/
  | anlDirectA (d : Byte)
  /-- `ANL direct,#data`, R176. -/
  | anlDirectImm (d : Byte) (k : Byte)
  /-- `ORL A,Rn`, R177. -/
  | orlARn (n : RegIndex)
  /-- `ORL A,direct`, R178. -/
  | orlADirect (d : Byte)
  /-- `ORL A,@Ri`, R179. -/
  | orlAInd (i : PtrIndex)
  /-- `ORL A,#data`, R180. -/
  | orlAImm (k : Byte)
  /-- `ORL direct,A`, R181. -/
  | orlDirectA (d : Byte)
  /-- `ORL direct,#data`, R182. -/
  | orlDirectImm (d : Byte) (k : Byte)
  /-- `XRL A,Rn`, R183. -/
  | xrlARn (n : RegIndex)
  /-- `XRL A,direct`, R184. -/
  | xrlADirect (d : Byte)
  /-- `XRL A,@Ri`, R185. -/
  | xrlAInd (i : PtrIndex)
  /-- `XRL A,#data`, R186. -/
  | xrlAImm (k : Byte)
  /-- `XRL direct,A`, R187. -/
  | xrlDirectA (d : Byte)
  /-- `XRL direct,#data`, R188. -/
  | xrlDirectImm (d : Byte) (k : Byte)
  /-- `CLR A`, R189. -/
  | clrA
  /-- `CPL A`, R190. -/
  | cplA
  /-- `RL A`, R191. -/
  | rlA
  /-- `RLC A`, R192. -/
  | rlcA
  /-- `RR A`, R193. -/
  | rrA
  /-- `RRC A`, R194. -/
  | rrcA
  /-- `SWAP A`, R195. -/
  | swapA
  -- 42_data_transfer.md
  /-- `MOV A,Rn`, R201. -/
  | movARn (n : RegIndex)
  /-- `MOV A,direct`, R202. -/
  | movADirect (d : Byte)
  /-- `MOV A,@Ri`, R203. -/
  | movAInd (i : PtrIndex)
  /-- `MOV A,#data`, R204. -/
  | movAImm (k : Byte)
  /-- `MOV Rn,A`, R205. -/
  | movRnA (n : RegIndex)
  /-- `MOV Rn,direct`, R206. -/
  | movRnDirect (n : RegIndex) (d : Byte)
  /-- `MOV Rn,#data`, R207. -/
  | movRnImm (n : RegIndex) (k : Byte)
  /-- `MOV direct,A`, R208. -/
  | movDirectA (d : Byte)
  /-- `MOV direct,Rn`, R209. -/
  | movDirectRn (n : RegIndex) (d : Byte)
  /-- `MOV direct,direct`, R210. -/
  | movDirectDirect (src : Byte) (dst : Byte)
  /-- `MOV direct,@Ri`, R211. -/
  | movDirectInd (i : PtrIndex) (d : Byte)
  /-- `MOV direct,#data`, R212. -/
  | movDirectImm (d : Byte) (k : Byte)
  /-- `MOV @Ri,A`, R213. -/
  | movIndA (i : PtrIndex)
  /-- `MOV @Ri,direct`, R214. -/
  | movIndDirect (i : PtrIndex) (d : Byte)
  /-- `MOV @Ri,#data`, R215. -/
  | movIndImm (i : PtrIndex) (k : Byte)
  /-- `MOV DPTR,#data16`, R216. -/
  | movDptrImm (k : Word)
  /-- `MOVC A,@A+DPTR`, R217. -/
  | movcADptr
  /-- `MOVC A,@A+PC`, R218. -/
  | movcAPc
  /-- `MOVX A,@Ri`, R219. -/
  | movxAInd (i : PtrIndex)
  /-- `MOVX A,@DPTR`, R220. -/
  | movxADptr
  /-- `MOVX @Ri,A`, R221. -/
  | movxIndA (i : PtrIndex)
  /-- `MOVX @DPTR,A`, R222. -/
  | movxDptrA
  /-- `PUSH direct`, R223. -/
  | push (d : Byte)
  /-- `POP direct`, R224. -/
  | pop (d : Byte)
  /-- `XCH A,Rn`, R225. -/
  | xchARn (n : RegIndex)
  /-- `XCH A,direct`, R226. -/
  | xchADirect (d : Byte)
  /-- `XCH A,@Ri`, R227. -/
  | xchAInd (i : PtrIndex)
  /-- `XCHD A,@Ri`, R228. -/
  | xchdAInd (i : PtrIndex)
  -- 43_boolean.md
  /-- `CLR C`, R241. -/
  | clrC
  /-- `CLR bit`, R242. -/
  | clrBit (b : Byte)
  /-- `SETB C`, R243. -/
  | setbC
  /-- `SETB bit`, R244. -/
  | setbBit (b : Byte)
  /-- `CPL C`, R245. -/
  | cplC
  /-- `CPL bit`, R246. -/
  | cplBit (b : Byte)
  /-- `ANL C,bit`, R247. -/
  | anlCBit (b : Byte)
  /-- `ANL C,/bit`, R248. -/
  | anlCNotBit (b : Byte)
  /-- `ORL C,bit`, R249. -/
  | orlCBit (b : Byte)
  /-- `ORL C,/bit`, R250. -/
  | orlCNotBit (b : Byte)
  /-- `MOV C,bit`, R251. -/
  | movCBit (b : Byte)
  /-- `MOV bit,C`, R252. -/
  | movBitC (b : Byte)
  /-- `JC rel`, R253. -/
  | jc (e : Byte)
  /-- `JNC rel`, R254. -/
  | jnc (e : Byte)
  /-- `JB bit,rel`, R255. -/
  | jb (b : Byte) (e : Byte)
  /-- `JNB bit,rel`, R256. -/
  | jnb (b : Byte) (e : Byte)
  /-- `JBC bit,rel`, R257. -/
  | jbc (b : Byte) (e : Byte)
  -- 44_control_transfer.md
  /-- `ACALL addr11`, R271. -/
  | acall (a : PageOffset)
  /-- `LCALL addr16`, R272. -/
  | lcall (a : Word)
  /-- `RET`, R273. -/
  | ret
  /-- `RETI`, R274. -/
  | reti
  /-- `AJMP addr11`, R275. -/
  | ajmp (a : PageOffset)
  /-- `LJMP addr16`, R276. -/
  | ljmp (a : Word)
  /-- `SJMP rel`, R277. -/
  | sjmp (e : Byte)
  /-- `JMP @A+DPTR`, R278. -/
  | jmpADptr
  /-- `JZ rel`, R279. -/
  | jz (e : Byte)
  /-- `JNZ rel`, R280. -/
  | jnz (e : Byte)
  /-- `CJNE A,direct,rel`, R281. -/
  | cjneADirect (d : Byte) (e : Byte)
  /-- `CJNE A,#data,rel`, R282. -/
  | cjneAImm (k : Byte) (e : Byte)
  /-- `CJNE Rn,#data,rel`, R283. -/
  | cjneRnImm (n : RegIndex) (k : Byte) (e : Byte)
  /-- `CJNE @Ri,#data,rel`, R284. -/
  | cjneIndImm (i : PtrIndex) (k : Byte) (e : Byte)
  /-- `DJNZ Rn,rel`, R285. -/
  | djnzRn (n : RegIndex) (e : Byte)
  /-- `DJNZ direct,rel`, R286. -/
  | djnzDirect (d : Byte) (e : Byte)
  /-- `NOP`, R287. -/
  | nop
  /-- the reserved opcode 0xA5, mnemonic "unknown", R288. -/
  | reserved
  deriving DecidableEq, Repr

end Sys2Proof
end

