-- ==== Sys2Proof/Decode.lean ====
section
/-! DEFINITION. The opcode table (`30_encoding.md` R120, R126), the decoder read off it, the encoder,
and the reading of an opcode-table word. -/
namespace Sys2Proof

/-! ## Fields of the opcode byte -/

/-- `n = op[2:0]` (`30_encoding.md` R105). -/
def regField (op : Byte) : RegIndex := op.extractLsb' 0 3

/-- `i = op[0]` (`30_encoding.md` R106). -/
def ptrField (op : Byte) : PtrIndex := op.extractLsb' 0 1

/-- `addr11 = (op[7:5] << 8) | b1` (`30_encoding.md` R111). -/
def pageField (op b1 : Byte) : PageOffset := op.extractLsb' 5 3 ++ b1

/-! ## The opcode table -/

/-- A row of the opcode table: its mnemonic, the bits an opcode byte must have under `mask`, the length
in bytes, and the instruction it stands for, given the three bytes `op`, `b1`, `b2` (a form of one or
two bytes does not look at the bytes it does not have). -/
structure OpcodeRow where
  mnemonic : String
  pattern : Byte
  mask : Byte
  length : Nat
  build : Byte → Byte → Byte → Instr

/-- The rows of 40_arithmetic.md. -/
def arithmeticRows : List OpcodeRow := [
  ⟨"ADD", 0x28, 0xF8, 1, fun op _ _ => .addARn (regField op)⟩,
  ⟨"ADD", 0x25, 0xFF, 2, fun _ b1 _ => .addADirect b1⟩,
  ⟨"ADD", 0x26, 0xFE, 1, fun op _ _ => .addAInd (ptrField op)⟩,
  ⟨"ADD", 0x24, 0xFF, 2, fun _ b1 _ => .addAImm b1⟩,
  ⟨"ADDC", 0x38, 0xF8, 1, fun op _ _ => .addcARn (regField op)⟩,
  ⟨"ADDC", 0x35, 0xFF, 2, fun _ b1 _ => .addcADirect b1⟩,
  ⟨"ADDC", 0x36, 0xFE, 1, fun op _ _ => .addcAInd (ptrField op)⟩,
  ⟨"ADDC", 0x34, 0xFF, 2, fun _ b1 _ => .addcAImm b1⟩,
  ⟨"SUBB", 0x98, 0xF8, 1, fun op _ _ => .subbARn (regField op)⟩,
  ⟨"SUBB", 0x95, 0xFF, 2, fun _ b1 _ => .subbADirect b1⟩,
  ⟨"SUBB", 0x96, 0xFE, 1, fun op _ _ => .subbAInd (ptrField op)⟩,
  ⟨"SUBB", 0x94, 0xFF, 2, fun _ b1 _ => .subbAImm b1⟩,
  ⟨"INC", 0x04, 0xFF, 1, fun _ _ _ => .incA⟩,
  ⟨"INC", 0x08, 0xF8, 1, fun op _ _ => .incRn (regField op)⟩,
  ⟨"INC", 0x05, 0xFF, 2, fun _ b1 _ => .incDirect b1⟩,
  ⟨"INC", 0x06, 0xFE, 1, fun op _ _ => .incInd (ptrField op)⟩,
  ⟨"INC", 0xA3, 0xFF, 1, fun _ _ _ => .incDptr⟩,
  ⟨"DEC", 0x14, 0xFF, 1, fun _ _ _ => .decA⟩,
  ⟨"DEC", 0x18, 0xF8, 1, fun op _ _ => .decRn (regField op)⟩,
  ⟨"DEC", 0x15, 0xFF, 2, fun _ b1 _ => .decDirect b1⟩,
  ⟨"DEC", 0x16, 0xFE, 1, fun op _ _ => .decInd (ptrField op)⟩,
  ⟨"MUL", 0xA4, 0xFF, 1, fun _ _ _ => .mulAB⟩,
  ⟨"DIV", 0x84, 0xFF, 1, fun _ _ _ => .divAB⟩,
  ⟨"DA", 0xD4, 0xFF, 1, fun _ _ _ => .daA⟩]

/-- The rows of 41_logical.md. -/
def logicalRows : List OpcodeRow := [
  ⟨"ANL", 0x58, 0xF8, 1, fun op _ _ => .anlARn (regField op)⟩,
  ⟨"ANL", 0x55, 0xFF, 2, fun _ b1 _ => .anlADirect b1⟩,
  ⟨"ANL", 0x56, 0xFE, 1, fun op _ _ => .anlAInd (ptrField op)⟩,
  ⟨"ANL", 0x54, 0xFF, 2, fun _ b1 _ => .anlAImm b1⟩,
  ⟨"ANL", 0x52, 0xFF, 2, fun _ b1 _ => .anlDirectA b1⟩,
  ⟨"ANL", 0x53, 0xFF, 3, fun _ b1 b2 => .anlDirectImm b1 b2⟩,
  ⟨"ORL", 0x48, 0xF8, 1, fun op _ _ => .orlARn (regField op)⟩,
  ⟨"ORL", 0x45, 0xFF, 2, fun _ b1 _ => .orlADirect b1⟩,
  ⟨"ORL", 0x46, 0xFE, 1, fun op _ _ => .orlAInd (ptrField op)⟩,
  ⟨"ORL", 0x44, 0xFF, 2, fun _ b1 _ => .orlAImm b1⟩,
  ⟨"ORL", 0x42, 0xFF, 2, fun _ b1 _ => .orlDirectA b1⟩,
  ⟨"ORL", 0x43, 0xFF, 3, fun _ b1 b2 => .orlDirectImm b1 b2⟩,
  ⟨"XRL", 0x68, 0xF8, 1, fun op _ _ => .xrlARn (regField op)⟩,
  ⟨"XRL", 0x65, 0xFF, 2, fun _ b1 _ => .xrlADirect b1⟩,
  ⟨"XRL", 0x66, 0xFE, 1, fun op _ _ => .xrlAInd (ptrField op)⟩,
  ⟨"XRL", 0x64, 0xFF, 2, fun _ b1 _ => .xrlAImm b1⟩,
  ⟨"XRL", 0x62, 0xFF, 2, fun _ b1 _ => .xrlDirectA b1⟩,
  ⟨"XRL", 0x63, 0xFF, 3, fun _ b1 b2 => .xrlDirectImm b1 b2⟩,
  ⟨"CLR", 0xE4, 0xFF, 1, fun _ _ _ => .clrA⟩,
  ⟨"CPL", 0xF4, 0xFF, 1, fun _ _ _ => .cplA⟩,
  ⟨"RL", 0x23, 0xFF, 1, fun _ _ _ => .rlA⟩,
  ⟨"RLC", 0x33, 0xFF, 1, fun _ _ _ => .rlcA⟩,
  ⟨"RR", 0x03, 0xFF, 1, fun _ _ _ => .rrA⟩,
  ⟨"RRC", 0x13, 0xFF, 1, fun _ _ _ => .rrcA⟩,
  ⟨"SWAP", 0xC4, 0xFF, 1, fun _ _ _ => .swapA⟩]

/-- The rows of 42_data_transfer.md. -/
def dataTransferRows : List OpcodeRow := [
  ⟨"MOV", 0xE8, 0xF8, 1, fun op _ _ => .movARn (regField op)⟩,
  ⟨"MOV", 0xE5, 0xFF, 2, fun _ b1 _ => .movADirect b1⟩,
  ⟨"MOV", 0xE6, 0xFE, 1, fun op _ _ => .movAInd (ptrField op)⟩,
  ⟨"MOV", 0x74, 0xFF, 2, fun _ b1 _ => .movAImm b1⟩,
  ⟨"MOV", 0xF8, 0xF8, 1, fun op _ _ => .movRnA (regField op)⟩,
  ⟨"MOV", 0xA8, 0xF8, 2, fun op b1 _ => .movRnDirect (regField op) b1⟩,
  ⟨"MOV", 0x78, 0xF8, 2, fun op b1 _ => .movRnImm (regField op) b1⟩,
  ⟨"MOV", 0xF5, 0xFF, 2, fun _ b1 _ => .movDirectA b1⟩,
  ⟨"MOV", 0x88, 0xF8, 2, fun op b1 _ => .movDirectRn (regField op) b1⟩,
  ⟨"MOV", 0x85, 0xFF, 3, fun _ b1 b2 => .movDirectDirect b1 b2⟩,
  ⟨"MOV", 0x86, 0xFE, 2, fun op b1 _ => .movDirectInd (ptrField op) b1⟩,
  ⟨"MOV", 0x75, 0xFF, 3, fun _ b1 b2 => .movDirectImm b1 b2⟩,
  ⟨"MOV", 0xF6, 0xFE, 1, fun op _ _ => .movIndA (ptrField op)⟩,
  ⟨"MOV", 0xA6, 0xFE, 2, fun op b1 _ => .movIndDirect (ptrField op) b1⟩,
  ⟨"MOV", 0x76, 0xFE, 2, fun op b1 _ => .movIndImm (ptrField op) b1⟩,
  ⟨"MOV", 0x90, 0xFF, 3, fun _ b1 b2 => .movDptrImm (b1 ++ b2)⟩,
  ⟨"MOVC", 0x93, 0xFF, 1, fun _ _ _ => .movcADptr⟩,
  ⟨"MOVC", 0x83, 0xFF, 1, fun _ _ _ => .movcAPc⟩,
  ⟨"MOVX", 0xE2, 0xFE, 1, fun op _ _ => .movxAInd (ptrField op)⟩,
  ⟨"MOVX", 0xE0, 0xFF, 1, fun _ _ _ => .movxADptr⟩,
  ⟨"MOVX", 0xF2, 0xFE, 1, fun op _ _ => .movxIndA (ptrField op)⟩,
  ⟨"MOVX", 0xF0, 0xFF, 1, fun _ _ _ => .movxDptrA⟩,
  ⟨"PUSH", 0xC0, 0xFF, 2, fun _ b1 _ => .push b1⟩,
  ⟨"POP", 0xD0, 0xFF, 2, fun _ b1 _ => .pop b1⟩,
  ⟨"XCH", 0xC8, 0xF8, 1, fun op _ _ => .xchARn (regField op)⟩,
  ⟨"XCH", 0xC5, 0xFF, 2, fun _ b1 _ => .xchADirect b1⟩,
  ⟨"XCH", 0xC6, 0xFE, 1, fun op _ _ => .xchAInd (ptrField op)⟩,
  ⟨"XCHD", 0xD6, 0xFE, 1, fun op _ _ => .xchdAInd (ptrField op)⟩]

/-- The rows of 43_boolean.md. -/
def booleanRows : List OpcodeRow := [
  ⟨"CLR", 0xC3, 0xFF, 1, fun _ _ _ => .clrC⟩,
  ⟨"CLR", 0xC2, 0xFF, 2, fun _ b1 _ => .clrBit b1⟩,
  ⟨"SETB", 0xD3, 0xFF, 1, fun _ _ _ => .setbC⟩,
  ⟨"SETB", 0xD2, 0xFF, 2, fun _ b1 _ => .setbBit b1⟩,
  ⟨"CPL", 0xB3, 0xFF, 1, fun _ _ _ => .cplC⟩,
  ⟨"CPL", 0xB2, 0xFF, 2, fun _ b1 _ => .cplBit b1⟩,
  ⟨"ANL", 0x82, 0xFF, 2, fun _ b1 _ => .anlCBit b1⟩,
  ⟨"ANL", 0xB0, 0xFF, 2, fun _ b1 _ => .anlCNotBit b1⟩,
  ⟨"ORL", 0x72, 0xFF, 2, fun _ b1 _ => .orlCBit b1⟩,
  ⟨"ORL", 0xA0, 0xFF, 2, fun _ b1 _ => .orlCNotBit b1⟩,
  ⟨"MOV", 0xA2, 0xFF, 2, fun _ b1 _ => .movCBit b1⟩,
  ⟨"MOV", 0x92, 0xFF, 2, fun _ b1 _ => .movBitC b1⟩,
  ⟨"JC", 0x40, 0xFF, 2, fun _ b1 _ => .jc b1⟩,
  ⟨"JNC", 0x50, 0xFF, 2, fun _ b1 _ => .jnc b1⟩,
  ⟨"JB", 0x20, 0xFF, 3, fun _ b1 b2 => .jb b1 b2⟩,
  ⟨"JNB", 0x30, 0xFF, 3, fun _ b1 b2 => .jnb b1 b2⟩,
  ⟨"JBC", 0x10, 0xFF, 3, fun _ b1 b2 => .jbc b1 b2⟩]

/-- The rows of 44_control_transfer.md. -/
def controlTransferRows : List OpcodeRow := [
  ⟨"ACALL", 0x11, 0x1F, 2, fun op b1 _ => .acall (pageField op b1)⟩,
  ⟨"LCALL", 0x12, 0xFF, 3, fun _ b1 b2 => .lcall (b1 ++ b2)⟩,
  ⟨"RET", 0x22, 0xFF, 1, fun _ _ _ => .ret⟩,
  ⟨"RETI", 0x32, 0xFF, 1, fun _ _ _ => .reti⟩,
  ⟨"AJMP", 0x01, 0x1F, 2, fun op b1 _ => .ajmp (pageField op b1)⟩,
  ⟨"LJMP", 0x02, 0xFF, 3, fun _ b1 b2 => .ljmp (b1 ++ b2)⟩,
  ⟨"SJMP", 0x80, 0xFF, 2, fun _ b1 _ => .sjmp b1⟩,
  ⟨"JMP", 0x73, 0xFF, 1, fun _ _ _ => .jmpADptr⟩,
  ⟨"JZ", 0x60, 0xFF, 2, fun _ b1 _ => .jz b1⟩,
  ⟨"JNZ", 0x70, 0xFF, 2, fun _ b1 _ => .jnz b1⟩,
  ⟨"CJNE", 0xB5, 0xFF, 3, fun _ b1 b2 => .cjneADirect b1 b2⟩,
  ⟨"CJNE", 0xB4, 0xFF, 3, fun _ b1 b2 => .cjneAImm b1 b2⟩,
  ⟨"CJNE", 0xB8, 0xF8, 3, fun op b1 b2 => .cjneRnImm (regField op) b1 b2⟩,
  ⟨"CJNE", 0xB6, 0xFE, 3, fun op b1 b2 => .cjneIndImm (ptrField op) b1 b2⟩,
  ⟨"DJNZ", 0xD8, 0xF8, 2, fun op b1 _ => .djnzRn (regField op) b1⟩,
  ⟨"DJNZ", 0xD5, 0xFF, 3, fun _ b1 b2 => .djnzDirect b1 b2⟩,
  ⟨"NOP", 0x00, 0xFF, 1, fun _ _ _ => .nop⟩,
  ⟨"unknown", 0xA5, 0xFF, 1, fun _ _ _ => .reserved⟩]

/-- All 112 rows (`30_encoding.md` R120). -/
def opcodeTable : List OpcodeRow :=
  arithmeticRows ++ (logicalRows ++ (dataTransferRows ++ (booleanRows ++ controlTransferRows)))

/-- `(op & mask) = match` (`30_encoding.md` R104, R120). -/
def OpcodeRow.selects (r : OpcodeRow) (op : Byte) : Bool := op &&& r.mask == r.pattern

/-- The row of opcode 0xA5 (`30_encoding.md` R121). -/
def reservedRow : OpcodeRow := ⟨"unknown", 0xA5, 0xFF, 1, fun _ _ _ => .reserved⟩

/-- `lookup`: the row an opcode byte selects (`30_encoding.md` R126). Every byte selects exactly one
row of the table (R120), so the default is never taken. -/
def lookup (op : Byte) : OpcodeRow := (opcodeTable.find? (·.selects op)).getD reservedRow

/-- The length in bytes of the instruction whose opcode byte is `op` (`30_encoding.md` R123). -/
def opcodeLength (op : Byte) : Nat := (lookup op).length

/-- The instruction of an opcode byte and its operand bytes, for any three bytes. -/
def decodeBytes (op b1 b2 : Byte) : Instr := (lookup op).build op b1 b2

/-! ## The decoder -/

/-- Why a list of bytes is no instruction. -/
inductive DecodeError where
  /-- There is no byte at all. -/
  | noOpcode
  /-- The opcode's length asks for more operand bytes than there are. -/
  | truncated
  deriving DecidableEq, Repr

/-- The instruction at the head of a list of bytes, with the bytes after it, or why there is none. -/
def decode : List Byte → Except DecodeError (Instr × List Byte)
  | [] => .error .noOpcode
  | op :: rest =>
    if rest.length + 1 < opcodeLength op then .error .truncated
    else .ok (decodeBytes op (rest.getD 0 0) (rest.getD 1 0), rest.drop (opcodeLength op - 1))

/-! ## The encoder -/

/-- The bytes of an instruction, from the encoding column of `30_encoding.md` R120. -/
def encode : Instr → List Byte
  | .addARn n => [0b00101#5 ++ n]
  | .addADirect d => [0x25, d]
  | .addAInd i => [0b0010011#7 ++ i]
  | .addAImm k => [0x24, k]
  | .addcARn n => [0b00111#5 ++ n]
  | .addcADirect d => [0x35, d]
  | .addcAInd i => [0b0011011#7 ++ i]
  | .addcAImm k => [0x34, k]
  | .subbARn n => [0b10011#5 ++ n]
  | .subbADirect d => [0x95, d]
  | .subbAInd i => [0b1001011#7 ++ i]
  | .subbAImm k => [0x94, k]
  | .incA => [0x04]
  | .incRn n => [0b00001#5 ++ n]
  | .incDirect d => [0x05, d]
  | .incInd i => [0b0000011#7 ++ i]
  | .incDptr => [0xA3]
  | .decA => [0x14]
  | .decRn n => [0b00011#5 ++ n]
  | .decDirect d => [0x15, d]
  | .decInd i => [0b0001011#7 ++ i]
  | .mulAB => [0xA4]
  | .divAB => [0x84]
  | .daA => [0xD4]
  | .anlARn n => [0b01011#5 ++ n]
  | .anlADirect d => [0x55, d]
  | .anlAInd i => [0b0101011#7 ++ i]
  | .anlAImm k => [0x54, k]
  | .anlDirectA d => [0x52, d]
  | .anlDirectImm d k => [0x53, d, k]
  | .orlARn n => [0b01001#5 ++ n]
  | .orlADirect d => [0x45, d]
  | .orlAInd i => [0b0100011#7 ++ i]
  | .orlAImm k => [0x44, k]
  | .orlDirectA d => [0x42, d]
  | .orlDirectImm d k => [0x43, d, k]
  | .xrlARn n => [0b01101#5 ++ n]
  | .xrlADirect d => [0x65, d]
  | .xrlAInd i => [0b0110011#7 ++ i]
  | .xrlAImm k => [0x64, k]
  | .xrlDirectA d => [0x62, d]
  | .xrlDirectImm d k => [0x63, d, k]
  | .clrA => [0xE4]
  | .cplA => [0xF4]
  | .rlA => [0x23]
  | .rlcA => [0x33]
  | .rrA => [0x03]
  | .rrcA => [0x13]
  | .swapA => [0xC4]
  | .movARn n => [0b11101#5 ++ n]
  | .movADirect d => [0xE5, d]
  | .movAInd i => [0b1110011#7 ++ i]
  | .movAImm k => [0x74, k]
  | .movRnA n => [0b11111#5 ++ n]
  | .movRnDirect n d => [0b10101#5 ++ n, d]
  | .movRnImm n k => [0b01111#5 ++ n, k]
  | .movDirectA d => [0xF5, d]
  | .movDirectRn n d => [0b10001#5 ++ n, d]
  | .movDirectDirect src dst => [0x85, src, dst]
  | .movDirectInd i d => [0b1000011#7 ++ i, d]
  | .movDirectImm d k => [0x75, d, k]
  | .movIndA i => [0b1111011#7 ++ i]
  | .movIndDirect i d => [0b1010011#7 ++ i, d]
  | .movIndImm i k => [0b0111011#7 ++ i, k]
  | .movDptrImm k => [0x90, k.extractLsb' 8 8, k.extractLsb' 0 8]
  | .movcADptr => [0x93]
  | .movcAPc => [0x83]
  | .movxAInd i => [0b1110001#7 ++ i]
  | .movxADptr => [0xE0]
  | .movxIndA i => [0b1111001#7 ++ i]
  | .movxDptrA => [0xF0]
  | .push d => [0xC0, d]
  | .pop d => [0xD0, d]
  | .xchARn n => [0b11001#5 ++ n]
  | .xchADirect d => [0xC5, d]
  | .xchAInd i => [0b1100011#7 ++ i]
  | .xchdAInd i => [0b1101011#7 ++ i]
  | .clrC => [0xC3]
  | .clrBit b => [0xC2, b]
  | .setbC => [0xD3]
  | .setbBit b => [0xD2, b]
  | .cplC => [0xB3]
  | .cplBit b => [0xB2, b]
  | .anlCBit b => [0x82, b]
  | .anlCNotBit b => [0xB0, b]
  | .orlCBit b => [0x72, b]
  | .orlCNotBit b => [0xA0, b]
  | .movCBit b => [0xA2, b]
  | .movBitC b => [0x92, b]
  | .jc e => [0x40, e]
  | .jnc e => [0x50, e]
  | .jb b e => [0x20, b, e]
  | .jnb b e => [0x30, b, e]
  | .jbc b e => [0x10, b, e]
  | .acall a => [a.extractLsb' 8 3 ++ 0b10001#5, a.extractLsb' 0 8]
  | .lcall a => [0x12, a.extractLsb' 8 8, a.extractLsb' 0 8]
  | .ret => [0x22]
  | .reti => [0x32]
  | .ajmp a => [a.extractLsb' 8 3 ++ 0b00001#5, a.extractLsb' 0 8]
  | .ljmp a => [0x02, a.extractLsb' 8 8, a.extractLsb' 0 8]
  | .sjmp e => [0x80, e]
  | .jmpADptr => [0x73]
  | .jz e => [0x60, e]
  | .jnz e => [0x70, e]
  | .cjneADirect d e => [0xB5, d, e]
  | .cjneAImm k e => [0xB4, k, e]
  | .cjneRnImm n k e => [0b10111#5 ++ n, k, e]
  | .cjneIndImm i k e => [0b1011011#7 ++ i, k, e]
  | .djnzRn n e => [0b11011#5 ++ n, e]
  | .djnzDirect d e => [0xD5, d, e]
  | .nop => [0x00]
  | .reserved => [0xA5]

/-- The length in bytes of an instruction (`30_encoding.md` R100). -/
def Instr.length (i : Instr) : Nat := (encode i).length

/-! ## Words as the opcode table numbers them -/

/-- Byte `k` of an instruction whose bits are `w` (bit 0 the least significant of the first byte), the
bits from `nbits` up taken as 0. -/
def tableByte (nbits w k : Nat) : Byte := BitVec.ofNat 8 ((w % 2 ^ nbits) >>> (8 * k))

/-- The three bytes of such an instruction, in the order they stand in Code Memory (`20_memory.md`
R77). -/
def tableBytes (nbits w : Nat) : List Byte := [tableByte nbits w 0, tableByte nbits w 1, tableByte nbits w 2]

/-- What the decoder reads from an instruction whose bits are `w`. -/
def decodeTableWord (nbits w : Nat) : Option Instr :=
  match decode (tableBytes nbits w) with
  | .ok (i, _) => some i
  | .error _ => none

end Sys2Proof
end

