-- ==== Sys2Proof/Config.lean ====
section
/-! DEFINITION. What is fixed for this hardware, the launch values of the platform's parameters, and
the one free value: the byte an SFR port input transaction delivers. -/
namespace Sys2Proof.Config

/-- The first address of the callback window, which reaches up to 0xFF (`20_memory.md` R67). -/
abbrev sfrLo : Byte := 0x80

/-- The most bytes CODE or XDATA can have (`00_scope.md` R8, `20_memory.md` R60). -/
abbrev maxSize : Nat := 65536

/-- The number of bytes of internal RAM (`10_state.md` R20). -/
abbrev iramSize : Nat := 256

/-- What a byte of memory that nothing has written reads as. DESIGN CHOICE (logs 1 and 3), unsafe:
the spec leaves the contents of IRAM at reset and of CODE and XDATA at launch open. -/
abbrev unlistedByte : Byte := 0x00

/-- CODE_SIZE of `State.reset`. DESIGN CHOICE (log 2): the spec leaves it open, 1 to 65536. -/
abbrev codeSizeAtReset : Nat := 65536

/-- XDATA_SIZE of `State.reset`. DESIGN CHOICE (log 2): the spec leaves it open, 0 to 65536. -/
abbrev xdataSizeAtReset : Nat := 65536

/-- The byte the input callback at an address supplies at the input transaction of the given number:
a FREE VALUE, "any value 0x00 to 0xFF, possibly different at each transaction" (`20_memory.md` R70,
log 4). It has no body: nothing can be proved about it. -/
opaque portInput : Nat → Byte → Byte

end Sys2Proof.Config
end

