-- ==== Sys2Proof/Machine/State.lean ====
section
/-! DEFINITION. The state of the machine (`10_state.md`), the reasons a step can stop, and the state
right after reset (`70_reset_and_hazards.md` R340 to R343). -/
namespace Sys2Proof.Machine

/-- The four faults a step can return (`60_exceptions.md` R300). A fault is a status returned to the
host: it vectors nowhere and changes nothing (R301, R311), so the state after it is the state before. -/
inductive Fault where
  /-- Raised by opcode 0xA5 alone (R305). Safe: the spec's own status. -/
  | unknownOpcode
  /-- Raised by the fetch (R304), `MOVC` and `MOVX` (R306) at an offset at or beyond the memory's size.
  Safe: the spec's own status. -/
  | memoryFault
  /-- Raised by `PUSH`, `ACALL`, `LCALL` when the push would carry SP past 0xFF (R307). Safe: the spec's
  own status. -/
  | stackOverflow
  /-- Raised by `POP`, `RET`, `RETI` when the pop would carry SP below 0x00 (R308). Safe: the spec's own
  status. -/
  | stackUnderflow
  deriving DecidableEq, Repr

/-- Why the model gives an instruction no meaning. -/
inductive Refusal where
  /-- Raised by an arm of `exec` that has no meaning yet; no arm of this model does. Safe: the run stops. -/
  | notModelled (mnemonic : String)
  deriving DecidableEq, Repr

/-- A transaction at the SFR port (`20_memory.md` R70, R71). -/
inductive PortEvent where
  /-- `in(a, v)`: the input callback at `a` delivered `v`. -/
  | input (a v : Byte)
  /-- `out(a, v)`: the output callback at `a` received `v`. -/
  | output (a v : Byte)
  deriving DecidableEq, Repr

/-- A memory: its bytes by address, addresses strictly rising, none equal to what an unlisted address
reads as (`Config.unlistedByte`). `Memory.wf` in Ops.lean says so. -/
abbrev Memory := List Host.Cell

/-- The state between two steps. -/
structure State where
  /-- PC, the address of the next instruction to fetch (`10_state.md` R27). -/
  pc : Word
  /-- The accumulator A (`10_state.md` R22). -/
  a : Byte
  /-- Register B (`10_state.md` R22). -/
  b : Byte
  /-- The program status word (`10_state.md` R23). -/
  psw : Byte
  /-- The stack pointer (`10_state.md` R24). -/
  sp : Byte
  /-- The data pointer (`10_state.md` R26). -/
  dptr : Word
  /-- IRAM, addresses 0x00 to 0xFF, the register banks in its first 32 bytes (`10_state.md` R20, R21). -/
  iram : Memory
  /-- CODE, read-only, offsets below `codeSize` (`20_memory.md` R62). -/
  code : Memory
  /-- CODE_SIZE (`00_scope.md` R8). -/
  codeSize : Nat
  /-- XDATA, offsets below `xdataSize` (`20_memory.md` R63). -/
  xdata : Memory
  /-- XDATA_SIZE (`00_scope.md` R8). -/
  xdataSize : Nat
  /-- InReg, the addresses with an input callback, strictly rising (`20_memory.md` R76). -/
  inReg : List Byte
  /-- OutReg, the addresses with an output callback, strictly rising (`20_memory.md` R76). -/
  outReg : List Byte
  /-- The model's own: the bytes the environment has decided to supply, oldest first (log 4). -/
  inputs : List Byte
  /-- The model's own: how many input transactions there have been (log 4). -/
  draws : Nat
  /-- The model's own: the port transactions so far, oldest first (log 5). -/
  trace : List PortEvent
  deriving DecidableEq, Repr

/-- The machine right after reset, before a platform has supplied a program: the register values of
`70_reset_and_hazards.md` R340; IRAM, CODE and XDATA with nothing listed (DESIGN CHOICE, logs 1, 3, 6);
both memories of full size and no callback registered (DESIGN CHOICE, log 2). -/
def State.reset : State where
  pc := 0x0000
  a := 0x00
  b := 0x00
  psw := 0x00
  sp := 0x07
  dptr := 0x0000
  iram := []
  code := []
  codeSize := Config.codeSizeAtReset
  xdata := []
  xdataSize := Config.xdataSizeAtReset
  inReg := []
  outReg := []
  inputs := []
  draws := 0
  trace := []

end Sys2Proof.Machine
end

