-- ==== Sys2Proof/Machine/Ops.lean ====
section
/-! DEFINITION. The named operations over memory, registers, ports and the program counter that every
meaning is made of, and the one operation that raises a fault. -/
namespace Sys2Proof.Machine

/-- What a step answers. -/
abbrev Result := Host.Outcome State Fault Refusal

/-! ## Raising a fault -/

/-- `raise F` (`60_exceptions.md` R301): the step's status is `F` and nothing else happens. There is no
entry and no return (R311, R312): the state after it is the state before the step, which the caller
holds. Every fault of every meaning and of the fetch goes through here. -/
def raise (f : Fault) : Result := .fault f

/-- Go on with the value of a checked operation, or raise the fault it reports. -/
def orRaise {α : Type} (r : Except Fault α) (k : α → Result) : Result :=
  match r with
  | .error f => raise f
  | .ok x => k x

/-- The codes of the statuses (`60_exceptions.md` R300); OK is 0. -/
def Fault.code : Fault → Nat
  | .unknownOpcode => 1
  | .memoryFault => 2
  | .stackOverflow => 3
  | .stackUnderflow => 4

/-- The status of a step as its code. A refusal is no status of the machine and has none. -/
def statusCode : Result → Option Nat
  | .next _ => some 0
  | .fault f => some f.code
  | .refused _ => none

/-! ## Memories as canonical lists -/

/-- The byte at an address. -/
def Memory.read : Memory → Nat → Byte
  | [], _ => Config.unlistedByte
  | (k, w) :: m, a => if a = k then w else Memory.read m a

/-- Put an address with its byte in front, unless an unlisted address reads as that byte anyway. -/
def Memory.consCell (a : Nat) (v : Byte) (m : Memory) : Memory :=
  if v = Config.unlistedByte then m else (a, v) :: m

/-- Store a byte at an address, keeping the canonical form. -/
def Memory.write : Memory → Nat → Byte → Memory
  | [], a, v => Memory.consCell a v []
  | (k, w) :: m, a, v =>
    if a < k then Memory.consCell a v ((k, w) :: m)
    else if a = k then Memory.consCell a v m
    else (k, w) :: Memory.write m a v

/-- The canonical form: addresses strictly rising, no entry equal to what an unlisted address reads as. -/
abbrev Memory.wf (m : Memory) : Prop :=
  m.Pairwise (fun x y => x.1 < y.1) ∧ ∀ c ∈ m, c.2 ≠ Config.unlistedByte

/-- Every listed address is below `n`. -/
abbrev Memory.below (n : Nat) (m : Memory) : Prop := ∀ c ∈ m, c.1 < n

/-! ## Bits of a byte -/

/-- `byte` with bit `pos` replaced by `v`: `(t & ~(1 << pos)) | (v << pos)` (`20_memory.md` R74). -/
def setBit (t : Byte) (pos : Nat) (v : Bool) : Byte :=
  (t &&& ~~~(1#8 <<< pos)) ||| ((BitVec.ofBool v).setWidth 8 <<< pos)

/-! ## Internal RAM, raw (`10_state.md` R20) -/

/-- `IRAM[a]`. -/
def State.iramRead (s : State) (a : Byte) : Byte := s.iram.read a.toNat

/-- `IRAM[a] <- v`. -/
def State.iramWrite (s : State) (a v : Byte) : State := { s with iram := s.iram.write a.toNat v }

/-! ## The plain registers -/

/-- `B <- v`. -/
def State.setB (s : State) (v : Byte) : State := { s with b := v }

/-- `SP <- v`. -/
def State.setSp (s : State) (v : Byte) : State := { s with sp := v }

/-- `DPTR <- v`. -/
def State.setDptr (s : State) (v : Word) : State := { s with dptr := v }

/-! ## CODE and XDATA (`20_memory.md` R62, R63) -/

/-- `MemRead(CODE, addr, 1)`; `addr` is not reduced modulo anything. -/
def State.codeRead (s : State) (addr : Nat) : Except Fault Byte :=
  if s.codeSize ≤ addr then .error .memoryFault else .ok (s.code.read addr)

/-- `XDATA[addr] <- v`, for an address below XDATA_SIZE. -/
def State.setXdata (s : State) (addr : Nat) (v : Byte) : State := { s with xdata := s.xdata.write addr v }

/-- `MemRead(XDATA, addr, 1)`. -/
def State.xdataRead (s : State) (addr : Nat) : Except Fault Byte :=
  if s.xdataSize ≤ addr then .error .memoryFault else .ok (s.xdata.read addr)

/-- `MemWrite(XDATA, addr, 1, v)`. -/
def State.xdataWrite (s : State) (addr : Nat) (v : Byte) : Except Fault State :=
  if s.xdataSize ≤ addr then .error .memoryFault else .ok (s.setXdata addr v)

/-! ## The SFR port (`20_memory.md` R70, R71) -/

/-- The byte the next input transaction at `a` delivers: what the environment has already decided to
supply, else a free value (log 4). -/
def State.nextInput (s : State) (a : Byte) : Byte := s.inputs.head?.getD (Config.portInput s.draws a)

/-- `PortIn(a)`: one input transaction, recorded as `in(a, v)`. -/
def State.portIn (s : State) (a : Byte) : Byte × State :=
  (s.nextInput a,
    { s with inputs := s.inputs.tail, draws := s.draws + 1, trace := s.trace ++ [.input a (s.nextInput a)] })

/-- `PortOut(a, v)`: one output transaction, recorded as `out(a, v)`. -/
def State.portOut (s : State) (a v : Byte) : State := { s with trace := s.trace ++ [.output a v] }

/-- A direct read of `a` goes to the port: `0x80 <= a and a in InReg` (`20_memory.md` R68). -/
def State.readsPort (s : State) (a : Byte) : Bool := decide (Config.sfrLo ≤ a) && s.inReg.contains a

/-- A direct write of `a` goes to the port: `0x80 <= a and a in OutReg` (`20_memory.md` R69). -/
def State.writesPort (s : State) (a : Byte) : Bool := decide (Config.sfrLo ≤ a) && s.outReg.contains a

/-- `DRead(a)` (`20_memory.md` R68): the byte and the state after the read. -/
def State.dRead (s : State) (a : Byte) : Byte × State :=
  if s.readsPort a then s.portIn a else (s.iramRead a, s)

/-- `DWrite(a, v)` (`20_memory.md` R69). A write to the port does not touch IRAM. -/
def State.dWrite (s : State) (a v : Byte) : State :=
  if s.writesPort a then s.portOut a v else s.iramWrite a v

/-! ## The stack (`10_state.md` R36 to R39): the bound is checked before any effect -/

/-- `PushByte(v)`. -/
def State.pushByte (s : State) (v : Byte) : Except Fault State :=
  if s.sp = 0xFF then .error .stackOverflow
  else .ok ((s.iramWrite (s.sp + 1) v).setSp (s.sp + 1))

/-- `PopByte()`: the byte and the state after the pop. -/
def State.popByte (s : State) : Except Fault (Byte × State) :=
  if s.sp = 0x00 then .error .stackUnderflow
  else .ok (s.iramRead s.sp, s.setSp (s.sp - 1))

/-- `PushWord(w)`: low byte at `SP + 1`, high byte at `SP + 2`. -/
def State.pushWord (s : State) (w : Word) : Except Fault State :=
  if 0xFE ≤ s.sp then .error .stackOverflow
  else .ok (((s.iramWrite (s.sp + 1) (w.extractLsb' 0 8)).iramWrite (s.sp + 2) (w.extractLsb' 8 8)).setSp
    (s.sp + 2))

/-- `PopWord()`: high byte at `SP`, low byte at `SP - 1`, and the state after the pop. -/
def State.popWord (s : State) : Except Fault (Word × State) :=
  if s.sp ≤ 0x01 then .error .stackUnderflow
  else .ok (s.iramRead s.sp ++ s.iramRead (s.sp - 1), s.setSp (s.sp - 2))

/-! ## The program counter (`10_state.md` R28) -/

/-- `PCn = (PC + len) mod 65536`, the address of the following instruction (`30_encoding.md` R103). -/
def State.pcNext (s : State) (len : Nat) : Word := s.pc + BitVec.ofNat 16 len

/-- `PC <- target`: an explicit control transfer. -/
def State.jump (s : State) (target : Word) : State := { s with pc := target }

/-- The sequential advance, `PC <- PCn`. -/
def State.advance (s : State) (len : Nat) : State := s.jump (s.pcNext len)

/-- `if taken then PC <- target else PC <- PCn`. -/
def State.branch (s : State) (taken : Bool) (target : Word) (len : Nat) : State :=
  if taken then s.jump target else s.advance len

/-! ## Fetch (`30_encoding.md` R101) -/

/-- Operand byte number `k` of an instruction of length `len` at PC; a byte the instruction does not
have is not read (and is 0, which nothing looks at). The offset `PC + k` does not wrap (R102). -/
def State.fetchOperand (s : State) (len k : Nat) : Except Fault Byte :=
  if k < len then s.codeRead (s.pc.toNat + k) else .ok 0

/-- The instruction at PC: the opcode byte, then as many operand bytes as its length asks for. -/
def State.fetch (s : State) : Except Fault Instr :=
  match s.codeRead s.pc.toNat with
  | .error f => .error f
  | .ok op =>
    match s.fetchOperand (opcodeLength op) 1 with
    | .error f => .error f
    | .ok b1 =>
      match s.fetchOperand (opcodeLength op) 2 with
      | .error f => .error f
      | .ok b2 => .ok (decodeBytes op b1 b2)

/-! ## What the platform and the host do outside a step -/

/-- Reset on a platform (`70_reset_and_hazards.md` R340 to R344): the registers take their reset values,
IRAM holds ANY contents `iram` (R341), and what belongs to the platform is not touched (R342). -/
def State.applyReset (iram : Memory) (s : State) : State :=
  { s with pc := 0x0000, a := 0x00, b := 0x00, psw := 0x00, sp := 0x07, dptr := 0x0000, iram := iram }

/-- A memory that holds `bytes` from `addr` upward, over what it held before. -/
def Memory.writeBytes (m : Memory) (addr : Nat) : List Byte → Memory
  | [] => m
  | v :: vs => Memory.writeBytes (m.write addr v) (addr + 1) vs

/-- The platform supplies a program image: CODE is exactly `image` (`20_memory.md` R66). -/
def State.loadCode (s : State) (image : List Byte) : State :=
  { s with code := Memory.writeBytes [] 0 image, codeSize := image.length }

/-- `s` with the instruction whose first byte is the first of `bytes` standing at PC: its bytes are stored
there, and CODE reaches at least to its end (log 8). -/
def State.placeInstr (s : State) (bytes : List Byte) : State :=
  { s with
    code := s.code.writeBytes s.pc.toNat (bytes.take (opcodeLength (bytes.headD 0)))
    codeSize := max s.codeSize (s.pc.toNat + opcodeLength (bytes.headD 0)) }

end Sys2Proof.Machine
end

