-- ==== Sys2Proof/Machine/Operands.lean ====
section
/-! DEFINITION. Every operand form (`30_encoding.md` R105 to R113): registers, indirect, direct (in
Ops.lean: `dRead`, `dWrite`), bits, and the targets of jumps and calls. -/
namespace Sys2Proof.Machine

/-! ## Register and indirect operands: raw IRAM -/

/-- `BankBase() = PSW[4:3] * 8` (`10_state.md` R30). -/
def State.bankBase (s : State) : Byte := ((s.psw >>> 3) &&& 0x3) * 8

/-- `RegAddr(n) = BankBase() + n` (`10_state.md` R31). -/
def State.regAddr (s : State) (n : RegIndex) : Byte := s.bankBase + n.setWidth 8

/-- `R[n]` (`10_state.md` R32). -/
def State.regRead (s : State) (n : RegIndex) : Byte := s.iramRead (s.regAddr n)

/-- `R[n] <- v` (`10_state.md` R32). -/
def State.regWrite (s : State) (n : RegIndex) (v : Byte) : State := s.iramWrite (s.regAddr n) v

/-- The pointer of `@Ri`, `IRAM[RegAddr(i)]` (`10_state.md` R40). -/
def State.ptr (s : State) (i : PtrIndex) : Byte := s.regRead (i.setWidth 3)

/-- The operand of `@Ri`, `IRAM[pointer]`, never routed (`10_state.md` R40). -/
def State.indRead (s : State) (i : PtrIndex) : Byte := s.iramRead (s.ptr i)

/-- A write of the operand of `@Ri` (`10_state.md` R40). -/
def State.indWrite (s : State) (i : PtrIndex) (v : Byte) : State := s.iramWrite (s.ptr i) v

/-! ## Bit operands: routed (`20_memory.md` R72 to R74) -/

/-- The byte address of `BitAddr(b)`. -/
def bitByte (b : Byte) : Byte := if b < 0x80 then 0x20 + (b >>> 3) else b &&& 0xF8

/-- The bit position of `BitAddr(b)`. -/
def bitPos (b : Byte) : Nat := (b &&& 7).toNat

/-- `BitRead(b)`: one routed read. -/
def State.bitRead (s : State) (b : Byte) : Bool × State :=
  ((s.dRead (bitByte b)).1.getLsbD (bitPos b), (s.dRead (bitByte b)).2)

/-- `BitWrite(b, v)`: one routed read, then one routed write of the whole byte with one bit replaced. -/
def State.bitWrite (s : State) (b : Byte) (v : Bool) : State :=
  let r := s.dRead (bitByte b)
  r.2.dWrite (bitByte b) (setBit r.1 (bitPos b) v)

/-! ## Code addresses -/

/-- `Rel(b) = (PCn + sext_8(b)) mod 65536` (`30_encoding.md` R110). -/
def State.relTarget (s : State) (len : Nat) (e : Byte) : Word := s.pcNext len + e.signExtend 16

/-- `(PCn & 0xF800) | addr11`, `PCn = PC + 2` (`30_encoding.md` R111). -/
def State.pageTarget (s : State) (a : PageOffset) : Word := (s.pcNext 2 &&& 0xF800) ||| a.setWidth 16

/-- `(A + DPTR) mod 65536`, A unsigned. -/
def State.aPlusDptr (s : State) : Word := s.a.setWidth 16 + s.dptr

/-- `(A + PCn) mod 65536`, `PCn = PC + 1`, A unsigned (`42_data_transfer.md` R218). -/
def State.aPlusPc (s : State) : Word := s.a.setWidth 16 + s.pcNext 1

end Sys2Proof.Machine
end

