-- ==== Sys2Proof/Machine/Flags.lean ====
section
/-! DEFINITION. The flags of PSW (`10_state.md` R23), the one way A is written (R34), and every flag
computation the spec gives: `AddCore`, `SubCore`, multiply, divide, decimal adjust, rotate through
carry, compare. -/
namespace Sys2Proof.Machine

/-! ## The eight bits of PSW -/

/-- Carry, PSW[7]. -/
def State.cy (s : State) : Bool := s.psw.getLsbD 7
/-- AuxCarry, PSW[6]. -/
def State.ac (s : State) : Bool := s.psw.getLsbD 6
/-- Flag, PSW[5]: storage no instruction reads or writes. -/
def State.f0 (s : State) : Bool := s.psw.getLsbD 5
/-- Register bank select, high bit, PSW[4]. -/
def State.rs1 (s : State) : Bool := s.psw.getLsbD 4
/-- Register bank select, low bit, PSW[3]. -/
def State.rs0 (s : State) : Bool := s.psw.getLsbD 3
/-- Overflow, PSW[2]. -/
def State.ov (s : State) : Bool := s.psw.getLsbD 2
/-- User, PSW[1]: storage no instruction reads or writes. -/
def State.f1 (s : State) : Bool := s.psw.getLsbD 1
/-- Parity, PSW[0]. -/
def State.p (s : State) : Bool := s.psw.getLsbD 0

/-- Replace one bit of PSW. -/
def State.setPswBit (s : State) (pos : Nat) (v : Bool) : State := { s with psw := setBit s.psw pos v }

/-- `CY <- v`. -/
def State.setCy (s : State) (v : Bool) : State := s.setPswBit 7 v
/-- `AC <- v`. -/
def State.setAc (s : State) (v : Bool) : State := s.setPswBit 6 v
/-- `OV <- v`. -/
def State.setOv (s : State) (v : Bool) : State := s.setPswBit 2 v

/-! ## Writing A -/

/-- 1 if `v` has an odd number of 1 bits (`10_state.md` R33). -/
def parity (v : Byte) : Bool := ((List.range 8).countP v.getLsbD) % 2 == 1

/-- `WriteA(v)`: `A <- v; P <- parity(v)` (`10_state.md` R34). -/
def State.writeA (s : State) (v : Byte) : State := { s.setPswBit 0 (parity v) with a := v }

/-! ## Addition and subtraction (`40_arithmetic.md` R140, R141) -/

/-- `AddCore(x, c)`. -/
def State.addCore (s : State) (x : Byte) (c : Bool) : State :=
  let sum := s.a.toNat + x.toNat + c.toNat
  let c7 := decide (sum > 0xFF)
  let c3 := decide ((s.a &&& 0x0F).toNat + (x &&& 0x0F).toNat + c.toNat > 0x0F)
  let c6 := decide ((s.a &&& 0x7F).toNat + (x &&& 0x7F).toNat + c.toNat > 0x7F)
  (((s.setCy c7).setAc c3).setOv (c6 ^^ c7)).writeA (BitVec.ofNat 8 sum)

/-- `SubCore(x, c)`; the three flags are borrows. -/
def State.subCore (s : State) (x : Byte) (c : Bool) : State :=
  let b7 := decide (s.a.toNat < x.toNat + c.toNat)
  let b3 := decide ((s.a &&& 0x0F).toNat < (x &&& 0x0F).toNat + c.toNat)
  let b6 := decide ((s.a &&& 0x7F).toNat < (x &&& 0x7F).toNat + c.toNat)
  (((s.setCy b7).setAc b3).setOv (b6 ^^ b7)).writeA
    (BitVec.ofInt 8 ((s.a.toNat : Int) - x.toNat - c.toNat))

/-! ## Multiply, divide, decimal adjust (`40_arithmetic.md` R163 to R165) -/

/-- `MUL AB`: the unsigned product in `B:A`; CY cleared, OV set when it exceeds 255, AC kept. -/
def State.mulCore (s : State) : State :=
  let p := s.a.toNat * s.b.toNat
  (((s.setB (BitVec.ofNat 8 (p / 256))).setCy false).setOv (decide (p > 255))).writeA
    (BitVec.ofNat 8 (p % 256))

/-- `DIV AB`: quotient in A, remainder in B; CY cleared, OV cleared. With `B = 0`, OV is set and A, B and
P stay (`90_conflicts.md` C14). -/
def State.divCore (s : State) : State :=
  if s.b = 0 then (s.setCy false).setOv true
  else
    (((s.setB (BitVec.ofNat 8 (s.a.toNat % s.b.toNat))).setCy false).setOv false).writeA
      (BitVec.ofNat 8 (s.a.toNat / s.b.toNat))

/-- One of the two corrections of `DA A`: if `adjust`, add `k` to `t`, and set the carry when the sum
exceeds 0xFF. The byte and the carry. -/
def daStep (t : Nat) (cy adjust : Bool) (k : Nat) : Nat × Bool :=
  if adjust then ((t + k) % 256, cy || decide (t + k > 0xFF)) else (t, cy)

/-- `DA A`: the low digit, then the high digit with the carry as possibly just set. CY is never
cleared; AC and OV are kept. -/
def State.daCore (s : State) : State :=
  let lo := daStep s.a.toNat s.cy (decide (s.a.toNat % 16 > 9) || s.ac) 0x06
  let hi := daStep lo.1 lo.2 (decide (lo.1 / 16 > 9) || lo.2) 0x60
  (s.setCy hi.2).writeA (BitVec.ofNat 8 hi.1)

/-! ## Rotate through carry (`41_logical.md` R192, R194) -/

/-- `RLC A`. -/
def State.rlcCore (s : State) : State :=
  (s.setCy (s.a.getLsbD 7)).writeA ((s.a <<< 1) ||| (BitVec.ofBool s.cy).setWidth 8)

/-- `RRC A`. -/
def State.rrcCore (s : State) : State :=
  (s.setCy (s.a.getLsbD 0)).writeA ((s.a >>> 1) ||| ((BitVec.ofBool s.cy).setWidth 8 <<< 7))

/-! ## Compare and jump (`44_control_transfer.md`, section 4) -/

/-- `CY <- 1 if x < y else 0`, then the jump if the unsigned bytes differ; 3 bytes. -/
def State.compareJump (s : State) (x y e : Byte) : State :=
  (s.setCy (decide (x < y))).branch (decide (x ≠ y)) (s.relTarget 3 e) 3

end Sys2Proof.Machine
end

