-- ==== Sys2Proof/Machine/Arithmetic.lean ====
section
/-! DEFINITION. The meanings of `40_arithmetic.md`: ADD, ADDC, SUBB, INC, DEC, MUL, DIV, DA. None of them
can fault once fetched. -/
namespace Sys2Proof.Machine

/-! ## ADD -/

/-- `ADD A,Rn` (R142). -/
def execAddARn (n : RegIndex) (s : State) : Result :=
  .next ((s.addCore (s.regRead n) false).advance 1)

/-- `ADD A,direct` (R143). -/
def execAddADirect (d : Byte) (s : State) : Result :=
  .next (((s.dRead d).2.addCore (s.dRead d).1 false).advance 2)

/-- `ADD A,@Ri` (R144). -/
def execAddAInd (i : PtrIndex) (s : State) : Result :=
  .next ((s.addCore (s.indRead i) false).advance 1)

/-- `ADD A,#data` (R145). -/
def execAddAImm (k : Byte) (s : State) : Result :=
  .next ((s.addCore k false).advance 2)

/-! ## ADDC -/

/-- `ADDC A,Rn` (R146). -/
def execAddcARn (n : RegIndex) (s : State) : Result :=
  .next ((s.addCore (s.regRead n) s.cy).advance 1)

/-- `ADDC A,direct` (R147). -/
def execAddcADirect (d : Byte) (s : State) : Result :=
  .next (((s.dRead d).2.addCore (s.dRead d).1 s.cy).advance 2)

/-- `ADDC A,@Ri` (R148). -/
def execAddcAInd (i : PtrIndex) (s : State) : Result :=
  .next ((s.addCore (s.indRead i) s.cy).advance 1)

/-- `ADDC A,#data` (R149). -/
def execAddcAImm (k : Byte) (s : State) : Result :=
  .next ((s.addCore k s.cy).advance 2)

/-! ## SUBB -/

/-- `SUBB A,Rn` (R150). -/
def execSubbARn (n : RegIndex) (s : State) : Result :=
  .next ((s.subCore (s.regRead n) s.cy).advance 1)

/-- `SUBB A,direct` (R151). -/
def execSubbADirect (d : Byte) (s : State) : Result :=
  .next (((s.dRead d).2.subCore (s.dRead d).1 s.cy).advance 2)

/-- `SUBB A,@Ri` (R152). -/
def execSubbAInd (i : PtrIndex) (s : State) : Result :=
  .next ((s.subCore (s.indRead i) s.cy).advance 1)

/-- `SUBB A,#data` (R153). -/
def execSubbAImm (k : Byte) (s : State) : Result :=
  .next ((s.subCore k s.cy).advance 2)

/-! ## INC and DEC: no flag but P, and P only with A -/

/-- `INC A` (R154). -/
def execIncA (s : State) : Result :=
  .next ((s.writeA (s.a + 1)).advance 1)

/-- `INC Rn` (R155). -/
def execIncRn (n : RegIndex) (s : State) : Result :=
  .next ((s.regWrite n (s.regRead n + 1)).advance 1)

/-- `INC direct` (R156). One routed read, then one routed write. -/
def execIncDirect (d : Byte) (s : State) : Result :=
  .next (((s.dRead d).2.dWrite d ((s.dRead d).1 + 1)).advance 2)

/-- `INC @Ri` (R157). -/
def execIncInd (i : PtrIndex) (s : State) : Result :=
  .next ((s.indWrite i (s.indRead i + 1)).advance 1)

/-- `INC DPTR` (R158). -/
def execIncDptr (s : State) : Result :=
  .next ((s.setDptr (s.dptr + 1)).advance 1)

/-- `DEC A` (R159). -/
def execDecA (s : State) : Result :=
  .next ((s.writeA (s.a - 1)).advance 1)

/-- `DEC Rn` (R160). -/
def execDecRn (n : RegIndex) (s : State) : Result :=
  .next ((s.regWrite n (s.regRead n - 1)).advance 1)

/-- `DEC direct` (R161). One routed read, then one routed write. -/
def execDecDirect (d : Byte) (s : State) : Result :=
  .next (((s.dRead d).2.dWrite d ((s.dRead d).1 - 1)).advance 2)

/-- `DEC @Ri` (R162). -/
def execDecInd (i : PtrIndex) (s : State) : Result :=
  .next ((s.indWrite i (s.indRead i - 1)).advance 1)

/-! ## MUL, DIV, DA -/

/-- `MUL AB` (R163). -/
def execMulAB (s : State) : Result :=
  .next (s.mulCore.advance 1)

/-- `DIV AB` (R164). -/
def execDivAB (s : State) : Result :=
  .next (s.divCore.advance 1)

/-- `DA A` (R165). -/
def execDaA (s : State) : Result :=
  .next (s.daCore.advance 1)

end Sys2Proof.Machine
end

