-- ==== Sys2Proof/Machine/Boolean.lean ====
section
/-! DEFINITION. The meanings of `43_boolean.md`: the carry, addressed bits, and the jumps on them. The only
flag any of them writes is CY, and none can fault once fetched (R240). -/
namespace Sys2Proof.Machine

/-! ## The carry -/

/-- `CLR C` (R241). -/
def execClrC (s : State) : Result :=
  .next ((s.setCy false).advance 1)

/-- `SETB C` (R243). -/
def execSetbC (s : State) : Result :=
  .next ((s.setCy true).advance 1)

/-- `CPL C` (R245). -/
def execCplC (s : State) : Result :=
  .next ((s.setCy (!s.cy)).advance 1)

/-! ## An addressed bit -/

/-- `CLR bit` (R242). -/
def execClrBit (b : Byte) (s : State) : Result :=
  .next ((s.bitWrite b false).advance 2)

/-- `SETB bit` (R244). -/
def execSetbBit (b : Byte) (s : State) : Result :=
  .next ((s.bitWrite b true).advance 2)

/-- `CPL bit` (R246). -/
def execCplBit (b : Byte) (s : State) : Result :=
  let r := s.dRead (bitByte b)
  .next ((r.2.dWrite (bitByte b) (r.1 ^^^ (1#8 <<< bitPos b))).advance 2)

/-! ## The carry and a bit -/

/-- `ANL C,bit` (R247). -/
def execAnlCBit (b : Byte) (s : State) : Result :=
  .next (((s.bitRead b).2.setCy (s.cy && (s.bitRead b).1)).advance 2)

/-- `ANL C,/bit` (R248). -/
def execAnlCNotBit (b : Byte) (s : State) : Result :=
  .next (((s.bitRead b).2.setCy (s.cy && !(s.bitRead b).1)).advance 2)

/-- `ORL C,bit` (R249). -/
def execOrlCBit (b : Byte) (s : State) : Result :=
  .next (((s.bitRead b).2.setCy (s.cy || (s.bitRead b).1)).advance 2)

/-- `ORL C,/bit` (R250). -/
def execOrlCNotBit (b : Byte) (s : State) : Result :=
  .next (((s.bitRead b).2.setCy (s.cy || !(s.bitRead b).1)).advance 2)

/-- `MOV C,bit` (R251). -/
def execMovCBit (b : Byte) (s : State) : Result :=
  .next (((s.bitRead b).2.setCy (s.bitRead b).1).advance 2)

/-- `MOV bit,C` (R252). -/
def execMovBitC (b : Byte) (s : State) : Result :=
  .next ((s.bitWrite b s.cy).advance 2)

/-! ## Jumps on the carry or a bit -/

/-- `JC rel` (R253). -/
def execJc (e : Byte) (s : State) : Result :=
  .next (s.branch s.cy (s.relTarget 2 e) 2)

/-- `JNC rel` (R254). -/
def execJnc (e : Byte) (s : State) : Result :=
  .next (s.branch (!s.cy) (s.relTarget 2 e) 2)

/-- `JB bit,rel` (R255). -/
def execJb (b e : Byte) (s : State) : Result :=
  .next ((s.bitRead b).2.branch (s.bitRead b).1 (s.relTarget 3 e) 3)

/-- `JNB bit,rel` (R256). -/
def execJnb (b e : Byte) (s : State) : Result :=
  .next ((s.bitRead b).2.branch (!(s.bitRead b).1) (s.relTarget 3 e) 3)

/-- `JBC bit,rel` (R257). The write is made only when the bit was 1. -/
def execJbc (b e : Byte) (s : State) : Result :=
  let r := s.dRead (bitByte b)
  if r.1.getLsbD (bitPos b) then
    .next ((r.2.dWrite (bitByte b) (r.1 &&& ~~~(1#8 <<< bitPos b))).jump (s.relTarget 3 e))
  else .next (r.2.advance 3)

end Sys2Proof.Machine
end

