-- ==== Sys2Proof/Machine/ControlTransfer.lean ====
section
/-! DEFINITION. The meanings of `44_control_transfer.md`: calls, returns, jumps, CJNE, DJNZ, NOP and the
reserved opcode. No flag but CY, in CJNE, is written; any 16-bit value is a legal target (R270). -/
namespace Sys2Proof.Machine

/-! ## Calls and returns -/

/-- `ACALL addr11` (R271). -/
def execAcall (a : PageOffset) (s : State) : Result :=
  orRaise (s.pushWord (s.pcNext 2)) fun t => .next (t.jump (s.pageTarget a))

/-- `LCALL addr16` (R272). -/
def execLcall (a : Word) (s : State) : Result :=
  orRaise (s.pushWord (s.pcNext 3)) fun t => .next (t.jump a)

/-- `RET` (R273). -/
def execRet (s : State) : Result :=
  orRaise s.popWord fun r => .next (r.2.jump r.1)

/-- `RETI` (R274). Exactly `RET`: there is no interrupt subsystem (`60_exceptions.md` R312, R320). -/
def execReti (s : State) : Result :=
  orRaise s.popWord fun r => .next (r.2.jump r.1)

/-! ## Unconditional jumps -/

/-- `AJMP addr11` (R275). -/
def execAjmp (a : PageOffset) (s : State) : Result :=
  .next (s.jump (s.pageTarget a))

/-- `LJMP addr16` (R276). -/
def execLjmp (a : Word) (s : State) : Result :=
  .next (s.jump a)

/-- `SJMP rel` (R277). -/
def execSjmp (e : Byte) (s : State) : Result :=
  .next (s.jump (s.relTarget 2 e))

/-- `JMP @A+DPTR` (R278). -/
def execJmpADptr (s : State) : Result :=
  .next (s.jump s.aPlusDptr)

/-! ## Jumps on the accumulator -/

/-- `JZ rel` (R279). -/
def execJz (e : Byte) (s : State) : Result :=
  .next (s.branch (decide (s.a = 0)) (s.relTarget 2 e) 2)

/-- `JNZ rel` (R280). -/
def execJnz (e : Byte) (s : State) : Result :=
  .next (s.branch (decide (s.a ≠ 0)) (s.relTarget 2 e) 2)

/-! ## CJNE -/

/-- `CJNE A,direct,rel` (R281). -/
def execCjneADirect (d e : Byte) (s : State) : Result :=
  .next ((s.dRead d).2.compareJump s.a (s.dRead d).1 e)

/-- `CJNE A,#data,rel` (R282). -/
def execCjneAImm (k e : Byte) (s : State) : Result :=
  .next (s.compareJump s.a k e)

/-- `CJNE Rn,#data,rel` (R283). -/
def execCjneRnImm (n : RegIndex) (k e : Byte) (s : State) : Result :=
  .next (s.compareJump (s.regRead n) k e)

/-- `CJNE @Ri,#data,rel` (R284). -/
def execCjneIndImm (i : PtrIndex) (k e : Byte) (s : State) : Result :=
  .next (s.compareJump (s.indRead i) k e)

/-! ## DJNZ -/

/-- `DJNZ Rn,rel` (R285). -/
def execDjnzRn (n : RegIndex) (e : Byte) (s : State) : Result :=
  let v := s.regRead n - 1
  .next ((s.regWrite n v).branch (decide (v ≠ 0)) (s.relTarget 2 e) 2)

/-- `DJNZ direct,rel` (R286). The test uses the value written. -/
def execDjnzDirect (d e : Byte) (s : State) : Result :=
  let v := (s.dRead d).1 - 1
  .next (((s.dRead d).2.dWrite d v).branch (decide (v ≠ 0)) (s.relTarget 3 e) 3)

/-! ## NOP and the reserved opcode -/

/-- `NOP` (R287). -/
def execNop (s : State) : Result :=
  .next (s.advance 1)

/-- Opcode 0xA5 (R288): `raise UnknownOpcode`, on every path. -/
def execReserved (_s : State) : Result := raise .unknownOpcode

end Sys2Proof.Machine
end

