-- ==== Sys2Proof/Machine/DataTransfer.lean ====
section
/-! DEFINITION. The meanings of `42_data_transfer.md`: MOV, MOVC, MOVX, PUSH, POP, XCH, XCHD. None writes
CY, AC or OV; the forms that can fault check before any effect (R200). -/
namespace Sys2Proof.Machine

/-! ## MOV to the accumulator -/

/-- `MOV A,Rn` (R201). -/
def execMovARn (n : RegIndex) (s : State) : Result :=
  .next ((s.writeA (s.regRead n)).advance 1)

/-- `MOV A,direct` (R202). -/
def execMovADirect (d : Byte) (s : State) : Result :=
  .next (((s.dRead d).2.writeA (s.dRead d).1).advance 2)

/-- `MOV A,@Ri` (R203). -/
def execMovAInd (i : PtrIndex) (s : State) : Result :=
  .next ((s.writeA (s.indRead i)).advance 1)

/-- `MOV A,#data` (R204). -/
def execMovAImm (k : Byte) (s : State) : Result :=
  .next ((s.writeA k).advance 2)

/-! ## MOV to a register -/

/-- `MOV Rn,A` (R205). -/
def execMovRnA (n : RegIndex) (s : State) : Result :=
  .next ((s.regWrite n s.a).advance 1)

/-- `MOV Rn,direct` (R206). -/
def execMovRnDirect (n : RegIndex) (d : Byte) (s : State) : Result :=
  .next (((s.dRead d).2.regWrite n (s.dRead d).1).advance 2)

/-- `MOV Rn,#data` (R207). -/
def execMovRnImm (n : RegIndex) (k : Byte) (s : State) : Result :=
  .next ((s.regWrite n k).advance 2)

/-! ## MOV to a direct address -/

/-- `MOV direct,A` (R208). -/
def execMovDirectA (d : Byte) (s : State) : Result :=
  .next ((s.dWrite d s.a).advance 2)

/-- `MOV direct,Rn` (R209). -/
def execMovDirectRn (n : RegIndex) (d : Byte) (s : State) : Result :=
  .next ((s.dWrite d (s.regRead n)).advance 2)

/-- `MOV direct,direct` (R210). The source is read before the destination is written. -/
def execMovDirectDirect (src dst : Byte) (s : State) : Result :=
  .next (((s.dRead src).2.dWrite dst (s.dRead src).1).advance 3)

/-- `MOV direct,@Ri` (R211). -/
def execMovDirectInd (i : PtrIndex) (d : Byte) (s : State) : Result :=
  .next ((s.dWrite d (s.indRead i)).advance 2)

/-- `MOV direct,#data` (R212). -/
def execMovDirectImm (d k : Byte) (s : State) : Result :=
  .next ((s.dWrite d k).advance 3)

/-! ## MOV to an indirect address -/

/-- `MOV @Ri,A` (R213). -/
def execMovIndA (i : PtrIndex) (s : State) : Result :=
  .next ((s.indWrite i s.a).advance 1)

/-- `MOV @Ri,direct` (R214). -/
def execMovIndDirect (i : PtrIndex) (d : Byte) (s : State) : Result :=
  .next (((s.dRead d).2.indWrite i (s.dRead d).1).advance 2)

/-- `MOV @Ri,#data` (R215). -/
def execMovIndImm (i : PtrIndex) (k : Byte) (s : State) : Result :=
  .next ((s.indWrite i k).advance 2)

/-! ## MOV DPTR -/

/-- `MOV DPTR,#data16` (R216). -/
def execMovDptrImm (k : Word) (s : State) : Result :=
  .next ((s.setDptr k).advance 3)

/-! ## MOVC: code memory -/

/-- `MOVC A,@A+DPTR` (R217). -/
def execMovcADptr (s : State) : Result :=
  orRaise (s.codeRead s.aPlusDptr.toNat) fun v => .next ((s.writeA v).advance 1)

/-- `MOVC A,@A+PC` (R218). -/
def execMovcAPc (s : State) : Result :=
  orRaise (s.codeRead s.aPlusPc.toNat) fun v => .next ((s.writeA v).advance 1)

/-! ## MOVX: external data memory. The high address byte of `@Ri` is 0 -/

/-- `MOVX A,@Ri` (R219). -/
def execMovxAInd (i : PtrIndex) (s : State) : Result :=
  orRaise (s.xdataRead (s.ptr i).toNat) fun v => .next ((s.writeA v).advance 1)

/-- `MOVX A,@DPTR` (R220). -/
def execMovxADptr (s : State) : Result :=
  orRaise (s.xdataRead s.dptr.toNat) fun v => .next ((s.writeA v).advance 1)

/-- `MOVX @Ri,A` (R221). -/
def execMovxIndA (i : PtrIndex) (s : State) : Result :=
  orRaise (s.xdataWrite (s.ptr i).toNat s.a) fun t => .next (t.advance 1)

/-- `MOVX @DPTR,A` (R222). -/
def execMovxDptrA (s : State) : Result :=
  orRaise (s.xdataWrite s.dptr.toNat s.a) fun t => .next (t.advance 1)

/-! ## PUSH and POP -/

/-- `PUSH direct` (R223). The bound is checked before the operand is read. -/
def execPush (d : Byte) (s : State) : Result :=
  if s.sp = 0xFF then raise .stackOverflow
  else orRaise ((s.dRead d).2.pushByte (s.dRead d).1) fun t => .next (t.advance 2)

/-- `POP direct` (R224). SP is decremented before the destination is written. -/
def execPop (d : Byte) (s : State) : Result :=
  orRaise s.popByte fun r => .next ((r.2.dWrite d r.1).advance 2)

/-! ## XCH and XCHD -/

/-- `XCH A,Rn` (R225). -/
def execXchARn (n : RegIndex) (s : State) : Result :=
  .next (((s.regWrite n s.a).writeA (s.regRead n)).advance 1)

/-- `XCH A,direct` (R226). -/
def execXchADirect (d : Byte) (s : State) : Result :=
  .next ((((s.dRead d).2.dWrite d s.a).writeA (s.dRead d).1).advance 2)

/-- `XCH A,@Ri` (R227). -/
def execXchAInd (i : PtrIndex) (s : State) : Result :=
  .next (((s.indWrite i s.a).writeA (s.indRead i)).advance 1)

/-- `XCHD A,@Ri` (R228). -/
def execXchdAInd (i : PtrIndex) (s : State) : Result :=
  .next (((s.indWrite i ((s.indRead i &&& 0xF0) ||| (s.a &&& 0x0F))).writeA
    ((s.a &&& 0xF0) ||| (s.indRead i &&& 0x0F))).advance 1)

end Sys2Proof.Machine
end

