-- ==== Sys2Proof/Machine/Logical.lean ====
section
/-! DEFINITION. The meanings of `41_logical.md`: ANL, ORL, XRL on bytes, and the accumulator-only
operations. None of them can fault once fetched, and none but RLC and RRC writes a flag other than P
(R170). -/
namespace Sys2Proof.Machine

/-! ## ANL -/

/-- `ANL A,Rn` (R171). -/
def execAnlARn (n : RegIndex) (s : State) : Result :=
  .next ((s.writeA (s.a &&& (s.regRead n))).advance 1)

/-- `ANL A,direct` (R172). -/
def execAnlADirect (d : Byte) (s : State) : Result :=
  .next (((s.dRead d).2.writeA (s.a &&& (s.dRead d).1)).advance 2)

/-- `ANL A,@Ri` (R173). -/
def execAnlAInd (i : PtrIndex) (s : State) : Result :=
  .next ((s.writeA (s.a &&& (s.indRead i))).advance 1)

/-- `ANL A,#data` (R174). -/
def execAnlAImm (k : Byte) (s : State) : Result :=
  .next ((s.writeA (s.a &&& k)).advance 2)

/-- `ANL direct,A` (R175). -/
def execAnlDirectA (d : Byte) (s : State) : Result :=
  .next (((s.dRead d).2.dWrite d ((s.dRead d).1 &&& s.a)).advance 2)

/-- `ANL direct,#data` (R176). -/
def execAnlDirectImm (d k : Byte) (s : State) : Result :=
  .next (((s.dRead d).2.dWrite d ((s.dRead d).1 &&& k)).advance 3)

/-! ## ORL -/

/-- `ORL A,Rn` (R177). -/
def execOrlARn (n : RegIndex) (s : State) : Result :=
  .next ((s.writeA (s.a ||| (s.regRead n))).advance 1)

/-- `ORL A,direct` (R178). -/
def execOrlADirect (d : Byte) (s : State) : Result :=
  .next (((s.dRead d).2.writeA (s.a ||| (s.dRead d).1)).advance 2)

/-- `ORL A,@Ri` (R179). -/
def execOrlAInd (i : PtrIndex) (s : State) : Result :=
  .next ((s.writeA (s.a ||| (s.indRead i))).advance 1)

/-- `ORL A,#data` (R180). -/
def execOrlAImm (k : Byte) (s : State) : Result :=
  .next ((s.writeA (s.a ||| k)).advance 2)

/-- `ORL direct,A` (R181). -/
def execOrlDirectA (d : Byte) (s : State) : Result :=
  .next (((s.dRead d).2.dWrite d ((s.dRead d).1 ||| s.a)).advance 2)

/-- `ORL direct,#data` (R182). -/
def execOrlDirectImm (d k : Byte) (s : State) : Result :=
  .next (((s.dRead d).2.dWrite d ((s.dRead d).1 ||| k)).advance 3)

/-! ## XRL -/

/-- `XRL A,Rn` (R183). -/
def execXrlARn (n : RegIndex) (s : State) : Result :=
  .next ((s.writeA (s.a ^^^ (s.regRead n))).advance 1)

/-- `XRL A,direct` (R184). -/
def execXrlADirect (d : Byte) (s : State) : Result :=
  .next (((s.dRead d).2.writeA (s.a ^^^ (s.dRead d).1)).advance 2)

/-- `XRL A,@Ri` (R185). -/
def execXrlAInd (i : PtrIndex) (s : State) : Result :=
  .next ((s.writeA (s.a ^^^ (s.indRead i))).advance 1)

/-- `XRL A,#data` (R186). -/
def execXrlAImm (k : Byte) (s : State) : Result :=
  .next ((s.writeA (s.a ^^^ k)).advance 2)

/-- `XRL direct,A` (R187). -/
def execXrlDirectA (d : Byte) (s : State) : Result :=
  .next (((s.dRead d).2.dWrite d ((s.dRead d).1 ^^^ s.a)).advance 2)

/-- `XRL direct,#data` (R188). -/
def execXrlDirectImm (d k : Byte) (s : State) : Result :=
  .next (((s.dRead d).2.dWrite d ((s.dRead d).1 ^^^ k)).advance 3)

/-! ## The accumulator alone -/

/-- `CLR A` (R189). -/
def execClrA (s : State) : Result :=
  .next ((s.writeA 0x00).advance 1)

/-- `CPL A` (R190). -/
def execCplA (s : State) : Result :=
  .next ((s.writeA (s.a ^^^ 0xFF)).advance 1)

/-- `RL A` (R191). -/
def execRlA (s : State) : Result :=
  .next ((s.writeA ((s.a <<< 1) ||| (s.a >>> 7))).advance 1)

/-- `RLC A` (R192). -/
def execRlcA (s : State) : Result :=
  .next (s.rlcCore.advance 1)

/-- `RR A` (R193). -/
def execRrA (s : State) : Result :=
  .next ((s.writeA ((s.a >>> 1) ||| ((s.a &&& 1) <<< 7))).advance 1)

/-- `RRC A` (R194). -/
def execRrcA (s : State) : Result :=
  .next (s.rrcCore.advance 1)

/-- `SWAP A` (R195). -/
def execSwapA (s : State) : Result :=
  .next ((s.writeA ((s.a <<< 4) ||| (s.a >>> 4))).advance 1)

end Sys2Proof.Machine
end

