-- ==== Sys2Proof/Machine/Dispatch.lean ====
section
/-! DEFINITION. Dispatch (`30_encoding.md` R104): one arm per constructor of `Instr`, each one direct
call of the instruction's meaning. -/
namespace Sys2Proof.Machine

def exec (i : Instr) (s : State) : Host.Outcome State Fault Refusal :=
  match i with
  -- 40_arithmetic.md
  | .addARn n => Sys2Proof.Machine.execAddARn n s
  | .addADirect d => Sys2Proof.Machine.execAddADirect d s
  | .addAInd p => Sys2Proof.Machine.execAddAInd p s
  | .addAImm k => Sys2Proof.Machine.execAddAImm k s
  | .addcARn n => Sys2Proof.Machine.execAddcARn n s
  | .addcADirect d => Sys2Proof.Machine.execAddcADirect d s
  | .addcAInd p => Sys2Proof.Machine.execAddcAInd p s
  | .addcAImm k => Sys2Proof.Machine.execAddcAImm k s
  | .subbARn n => Sys2Proof.Machine.execSubbARn n s
  | .subbADirect d => Sys2Proof.Machine.execSubbADirect d s
  | .subbAInd p => Sys2Proof.Machine.execSubbAInd p s
  | .subbAImm k => Sys2Proof.Machine.execSubbAImm k s
  | .incA => Sys2Proof.Machine.execIncA s
  | .incRn n => Sys2Proof.Machine.execIncRn n s
  | .incDirect d => Sys2Proof.Machine.execIncDirect d s
  | .incInd p => Sys2Proof.Machine.execIncInd p s
  | .incDptr => Sys2Proof.Machine.execIncDptr s
  | .decA => Sys2Proof.Machine.execDecA s
  | .decRn n => Sys2Proof.Machine.execDecRn n s
  | .decDirect d => Sys2Proof.Machine.execDecDirect d s
  | .decInd p => Sys2Proof.Machine.execDecInd p s
  | .mulAB => Sys2Proof.Machine.execMulAB s
  | .divAB => Sys2Proof.Machine.execDivAB s
  | .daA => Sys2Proof.Machine.execDaA s
  -- 41_logical.md
  | .anlARn n => Sys2Proof.Machine.execAnlARn n s
  | .anlADirect d => Sys2Proof.Machine.execAnlADirect d s
  | .anlAInd p => Sys2Proof.Machine.execAnlAInd p s
  | .anlAImm k => Sys2Proof.Machine.execAnlAImm k s
  | .anlDirectA d => Sys2Proof.Machine.execAnlDirectA d s
  | .anlDirectImm d k => Sys2Proof.Machine.execAnlDirectImm d k s
  | .orlARn n => Sys2Proof.Machine.execOrlARn n s
  | .orlADirect d => Sys2Proof.Machine.execOrlADirect d s
  | .orlAInd p => Sys2Proof.Machine.execOrlAInd p s
  | .orlAImm k => Sys2Proof.Machine.execOrlAImm k s
  | .orlDirectA d => Sys2Proof.Machine.execOrlDirectA d s
  | .orlDirectImm d k => Sys2Proof.Machine.execOrlDirectImm d k s
  | .xrlARn n => Sys2Proof.Machine.execXrlARn n s
  | .xrlADirect d => Sys2Proof.Machine.execXrlADirect d s
  | .xrlAInd p => Sys2Proof.Machine.execXrlAInd p s
  | .xrlAImm k => Sys2Proof.Machine.execXrlAImm k s
  | .xrlDirectA d => Sys2Proof.Machine.execXrlDirectA d s
  | .xrlDirectImm d k => Sys2Proof.Machine.execXrlDirectImm d k s
  | .clrA => Sys2Proof.Machine.execClrA s
  | .cplA => Sys2Proof.Machine.execCplA s
  | .rlA => Sys2Proof.Machine.execRlA s
  | .rlcA => Sys2Proof.Machine.execRlcA s
  | .rrA => Sys2Proof.Machine.execRrA s
  | .rrcA => Sys2Proof.Machine.execRrcA s
  | .swapA => Sys2Proof.Machine.execSwapA s
  -- 42_data_transfer.md
  | .movARn n => Sys2Proof.Machine.execMovARn n s
  | .movADirect d => Sys2Proof.Machine.execMovADirect d s
  | .movAInd p => Sys2Proof.Machine.execMovAInd p s
  | .movAImm k => Sys2Proof.Machine.execMovAImm k s
  | .movRnA n => Sys2Proof.Machine.execMovRnA n s
  | .movRnDirect n d => Sys2Proof.Machine.execMovRnDirect n d s
  | .movRnImm n k => Sys2Proof.Machine.execMovRnImm n k s
  | .movDirectA d => Sys2Proof.Machine.execMovDirectA d s
  | .movDirectRn n d => Sys2Proof.Machine.execMovDirectRn n d s
  | .movDirectDirect src dst => Sys2Proof.Machine.execMovDirectDirect src dst s
  | .movDirectInd p d => Sys2Proof.Machine.execMovDirectInd p d s
  | .movDirectImm d k => Sys2Proof.Machine.execMovDirectImm d k s
  | .movIndA p => Sys2Proof.Machine.execMovIndA p s
  | .movIndDirect p d => Sys2Proof.Machine.execMovIndDirect p d s
  | .movIndImm p k => Sys2Proof.Machine.execMovIndImm p k s
  | .movDptrImm k => Sys2Proof.Machine.execMovDptrImm k s
  | .movcADptr => Sys2Proof.Machine.execMovcADptr s
  | .movcAPc => Sys2Proof.Machine.execMovcAPc s
  | .movxAInd p => Sys2Proof.Machine.execMovxAInd p s
  | .movxADptr => Sys2Proof.Machine.execMovxADptr s
  | .movxIndA p => Sys2Proof.Machine.execMovxIndA p s
  | .movxDptrA => Sys2Proof.Machine.execMovxDptrA s
  | .push d => Sys2Proof.Machine.execPush d s
  | .pop d => Sys2Proof.Machine.execPop d s
  | .xchARn n => Sys2Proof.Machine.execXchARn n s
  | .xchADirect d => Sys2Proof.Machine.execXchADirect d s
  | .xchAInd p => Sys2Proof.Machine.execXchAInd p s
  | .xchdAInd p => Sys2Proof.Machine.execXchdAInd p s
  -- 43_boolean.md
  | .clrC => Sys2Proof.Machine.execClrC s
  | .clrBit b => Sys2Proof.Machine.execClrBit b s
  | .setbC => Sys2Proof.Machine.execSetbC s
  | .setbBit b => Sys2Proof.Machine.execSetbBit b s
  | .cplC => Sys2Proof.Machine.execCplC s
  | .cplBit b => Sys2Proof.Machine.execCplBit b s
  | .anlCBit b => Sys2Proof.Machine.execAnlCBit b s
  | .anlCNotBit b => Sys2Proof.Machine.execAnlCNotBit b s
  | .orlCBit b => Sys2Proof.Machine.execOrlCBit b s
  | .orlCNotBit b => Sys2Proof.Machine.execOrlCNotBit b s
  | .movCBit b => Sys2Proof.Machine.execMovCBit b s
  | .movBitC b => Sys2Proof.Machine.execMovBitC b s
  | .jc e => Sys2Proof.Machine.execJc e s
  | .jnc e => Sys2Proof.Machine.execJnc e s
  | .jb b e => Sys2Proof.Machine.execJb b e s
  | .jnb b e => Sys2Proof.Machine.execJnb b e s
  | .jbc b e => Sys2Proof.Machine.execJbc b e s
  -- 44_control_transfer.md
  | .acall a => Sys2Proof.Machine.execAcall a s
  | .lcall a => Sys2Proof.Machine.execLcall a s
  | .ret => Sys2Proof.Machine.execRet s
  | .reti => Sys2Proof.Machine.execReti s
  | .ajmp a => Sys2Proof.Machine.execAjmp a s
  | .ljmp a => Sys2Proof.Machine.execLjmp a s
  | .sjmp e => Sys2Proof.Machine.execSjmp e s
  | .jmpADptr => Sys2Proof.Machine.execJmpADptr s
  | .jz e => Sys2Proof.Machine.execJz e s
  | .jnz e => Sys2Proof.Machine.execJnz e s
  | .cjneADirect d e => Sys2Proof.Machine.execCjneADirect d e s
  | .cjneAImm k e => Sys2Proof.Machine.execCjneAImm k e s
  | .cjneRnImm n k e => Sys2Proof.Machine.execCjneRnImm n k e s
  | .cjneIndImm p k e => Sys2Proof.Machine.execCjneIndImm p k e s
  | .djnzRn n e => Sys2Proof.Machine.execDjnzRn n e s
  | .djnzDirect d e => Sys2Proof.Machine.execDjnzDirect d e s
  | .nop => Sys2Proof.Machine.execNop s
  | .reserved => Sys2Proof.Machine.execReserved s

end Sys2Proof.Machine
end

