-- ==== Sys2Proof/Machine/Step.lean ====
section
/-! DEFINITION. One step (`00_scope.md` R5, `30_encoding.md` R101, R104): fetch the instruction at PC,
then execute it. -/
namespace Sys2Proof.Machine

/-- One activation of the step interface. PC is written by the instruction's meaning (`10_state.md`
R28). -/
def step (s : State) : Host.Outcome State Fault Refusal := orRaise s.fetch fun i => exec i s

/-- `s` with the instruction whose bits are `w`, numbered as spec/opcode_table.json numbers them, stored
at PC, where `step` fetches it (log 8). -/
def State.withFetchWord (s : State) (nbits w : Nat) : State := s.placeInstr (tableBytes nbits w)

end Sys2Proof.Machine
end

