-- ==== Sys2Proof/WellFormed.lean ====
section
/-! DEFINITION. Which instructions are well formed. The types of `Instr`'s fields hold exactly what the
encodings admit, and no operand value is reserved (`30_encoding.md` R122), so the one check is the one
reserved encoding (R121): opcode 0xA5 is in the table and decodes, but is no instruction a program can
execute. -/
namespace Sys2Proof

/-- Not the reserved opcode (`30_encoding.md` R121: "the only reserved encoding"). -/
def Instr.notReserved (i : Instr) : Bool := decide (i ≠ .reserved)

/-- An instruction of the base 8051 set: one of the 111 forms, any operands. -/
def Instr.wellFormed (i : Instr) : Bool := i.notReserved

end Sys2Proof
end

