-- ==== Sys2Proof/Safety.lean ====
section
/-! DEFINITION. The terms claims are stated in: the states the spec gives a machine, the parity
invariant, the one check of an instruction, what a step leaves unchanged, and a run as the host makes
it. -/
namespace Sys2Proof.Machine

/-! ## States the spec gives a machine -/

/-- A set of window addresses: strictly rising, each 0x80 or above (`20_memory.md` R76). -/
abbrev windowSet (l : List Byte) : Prop := l.Pairwise (· < ·) ∧ ∀ a ∈ l, Config.sfrLo ≤ a

/-- A state within the sizes of `00_scope.md` R8 and `10_state.md` R20, its memories in canonical form and
inside their spaces, its registry inside the window (log 9). Every step keeps it. -/
def State.Legal (s : State) : Prop :=
  (s.iram.wf ∧ s.iram.below Config.iramSize) ∧
  (s.code.wf ∧ s.code.below s.codeSize ∧ 1 ≤ s.codeSize ∧ s.codeSize ≤ Config.maxSize) ∧
  (s.xdata.wf ∧ s.xdata.below s.xdataSize ∧ s.xdataSize ≤ Config.maxSize) ∧
  windowSet s.inReg ∧ windowSet s.outReg

/-- `P = parity(A)` (`10_state.md` R35). -/
abbrev State.ParityHolds (s : State) : Prop := s.p = parity s.a

/-- `bytes` stand in CODE from PC on. -/
def State.CodeAtPc (s : State) (bytes : List Byte) : Prop :=
  ∀ k, (h : k < bytes.length) → s.codeRead (s.pc.toNat + k) = .ok bytes[k]

end Sys2Proof.Machine

namespace Sys2Proof

/-! ## The one check of an instruction (`60_exceptions.md` R302, stages 2 and 3) -/

/-- The fault of `i` in the state before the step, if its check reports one: the table of R302, whose
last row is "every other instruction | none". -/
def Instr.check (i : Instr) (s : Machine.State) : Option Machine.Fault :=
  match i with
  | .reserved => some .unknownOpcode
  | .push _ => if s.sp = 0xFF then some .stackOverflow else none
  | .acall _ => if s.sp ≥ 0xFE then some .stackOverflow else none
  | .lcall _ => if s.sp ≥ 0xFE then some .stackOverflow else none
  | .pop _ => if s.sp = 0x00 then some .stackUnderflow else none
  | .ret => if s.sp ≤ 0x01 then some .stackUnderflow else none
  | .reti => if s.sp ≤ 0x01 then some .stackUnderflow else none
  | .movcADptr => if (s.a.toNat + s.dptr.toNat) % 65536 ≥ s.codeSize then some .memoryFault else none
  | .movcAPc => if (s.a.toNat + (s.pc.toNat + 1)) % 65536 ≥ s.codeSize then some .memoryFault else none
  | .movxADptr => if s.dptr.toNat ≥ s.xdataSize then some .memoryFault else none
  | .movxDptrA => if s.dptr.toNat ≥ s.xdataSize then some .memoryFault else none
  | .movxAInd i => if (s.ptr i).toNat ≥ s.xdataSize then some .memoryFault else none
  | .movxIndA i => if (s.ptr i).toNat ≥ s.xdataSize then some .memoryFault else none
  | _ => none

/-- The instructions that may end a step with an explicit control transfer (`10_state.md` R28): those of
`44_control_transfer.md` but NOP and the reserved opcode, and the jumps of `43_boolean.md`. -/
def Instr.transfers : Instr → Bool
  | .acall _ | .lcall _ | .ret | .reti | .ajmp _ | .ljmp _ | .sjmp _ | .jmpADptr => true
  | .jz _ | .jnz _ | .cjneADirect _ _ | .cjneAImm _ _ | .cjneRnImm _ _ _ | .cjneIndImm _ _ _ => true
  | .djnzRn _ _ | .djnzDirect _ _ | .jc _ | .jnc _ | .jb _ _ | .jnb _ _ | .jbc _ _ => true
  | _ => false

end Sys2Proof

namespace Sys2Proof.Machine

/-! ## What a step leaves unchanged -/

/-- The registers that are neither PC nor PSW; `Rn` are bytes of IRAM. -/
inductive Reg where
  | a | b | sp | dptr
  deriving DecidableEq, Repr

/-- The contents of a register, as a number. -/
def State.regValue (s : State) : Reg → Nat
  | .a => s.a.toNat
  | .b => s.b.toNat
  | .sp => s.sp.toNat
  | .dptr => s.dptr.toNat

/-- Every register but those of `regs` is as before. -/
def RegsKeptBut (regs : List Reg) (s t : State) : Prop := ∀ r, r ∉ regs → t.regValue r = s.regValue r

/-- Every bit of PSW but those of `flags` is as before. -/
def FlagsKeptBut (flags : List Nat) (s t : State) : Prop :=
  ∀ k, k < 8 → k ∉ flags → t.psw.getLsbD k = s.psw.getLsbD k

/-- Every byte of IRAM but those at `cells` reads as before. -/
def IramKeptBut (cells : List Byte) (s t : State) : Prop := ∀ a, a ∉ cells → t.iramRead a = s.iramRead a

/-- Every byte of XDATA but those at `cells` reads as before. -/
def XdataKeptBut (cells : List Nat) (s t : State) : Prop :=
  ∀ n, n ∉ cells → t.xdata.read n = s.xdata.read n

/-- CODE, both sizes and the registry are as before. -/
def PlatformKept (s t : State) : Prop :=
  (∀ n, t.code.read n = s.code.read n) ∧ t.codeSize = s.codeSize ∧ t.xdataSize = s.xdataSize ∧
  t.inReg = s.inReg ∧ t.outReg = s.outReg

/-- The frame of an instruction: what it may change besides PC and the port's transactions, and nothing
else. -/
def Frame (regs : List Reg) (flags : List Nat) (cells : List Byte) (xcells : List Nat) (s t : State) : Prop :=
  RegsKeptBut regs s t ∧ FlagsKeptBut flags s t ∧ IramKeptBut cells s t ∧ XdataKeptBut xcells s t ∧
  PlatformKept s t

/-- The port stands in `t` as it does in `u`: no transaction lies between them. -/
def PortAs (u t : State) : Prop := t.inputs = u.inputs ∧ t.draws = u.draws ∧ t.trace = u.trace

/-! ## A run as the host makes it (`60_exceptions.md` R303, `70_reset_and_hazards.md` R355, R356)

A run is the sequence of steps a host requests. Its two open parameters, HOST_ON_FAULT and RUN_END
(`92_eei_decisions.md`, open parameters), are arguments (log 7). -/

/-- One step of a run: the state before it, its status (`none` is OK) and the state after it, which is the
state before it when the status is a fault (`60_exceptions.md` R301). -/
structure StepRecord where
  before : State
  status : Option Fault
  after : State
  deriving DecidableEq, Repr

/-- The steps a host has made, the latest first. -/
abbrev Run := List StepRecord

/-- RUN_END, a predicate on the run: asked after each step with the steps made so far, whether the host
stops stepping (`70_reset_and_hazards.md` R356: "the host's choice"). -/
abbrev RunEndPredicate := Run → Bool

/-- The host never stops of its own accord. -/
def neverEnds : RunEndPredicate := fun _ => false

/-- A step returned OK with PC unchanged and the bytes of `SJMP $`, 80 FE, at PC. -/
def StepRecord.isIdleLoop (r : StepRecord) : Bool :=
  decide (r.status = none ∧ r.after.pc = r.before.pc ∧
    (r.before.codeRead r.before.pc.toNat).toOption = some 0x80 ∧
    (r.before.codeRead (r.before.pc.toNat + 1)).toOption = some 0xFE)

/-- The RUN_END of the spec's programs and test vectors, convention 1 of R356: stop once the idle loop has
been executed. -/
def endsAtIdleLoop : RunEndPredicate := fun run => run.head?.any StepRecord.isIdleLoop

/-- HOST_ON_FAULT: what the host does after a status other than OK. `stop` is the reference behaviour and
convention 2 of R356. -/
inductive HostOnFault where
  | stop | continue
  deriving DecidableEq, Repr

/-- Why a run is over. -/
inductive RunEnding where
  /-- RUN_END holds of the run. -/
  | ended
  /-- A step returned a fault and the host stops on faults. -/
  | faulted (f : Fault)
  /-- The step budget ran out: the third outcome, convention 3 of R356. -/
  | budget
  /-- A step was refused; no step of this model is. -/
  | refused (r : Refusal)
  deriving DecidableEq, Repr

/-- A run that is over: why, its steps (their statuses and states are what a host can observe, R355), and
the end state. -/
structure HostRun where
  ending : RunEnding
  run : Run
  final : State
  deriving DecidableEq, Repr

/-- Go on stepping from `s`, after the steps of `run`, for at most `fuel` steps. A fault ends the run under
`stop`; otherwise RUN_END is asked, after a step of any status. -/
def continueRun (ends : RunEndPredicate) (onFault : HostOnFault) : Nat → Run → State → HostRun
  | 0, run, s => ⟨.budget, run, s⟩
  | fuel + 1, run, s =>
    match step s with
    | .next t =>
      if ends (⟨s, none, t⟩ :: run) then ⟨.ended, ⟨s, none, t⟩ :: run, t⟩
      else continueRun ends onFault fuel (⟨s, none, t⟩ :: run) t
    | .fault f =>
      if onFault = .stop then ⟨.faulted f, ⟨s, some f, s⟩ :: run, s⟩
      else if ends (⟨s, some f, s⟩ :: run) then ⟨.ended, ⟨s, some f, s⟩ :: run, s⟩
      else continueRun ends onFault fuel (⟨s, some f, s⟩ :: run) s
    | .refused r => ⟨.refused r, run, s⟩

/-- A run from a launch state, for any RUN_END and HOST_ON_FAULT. -/
def runHost (ends : RunEndPredicate) (onFault : HostOnFault) (fuel : Nat) (s : State) : HostRun :=
  continueRun ends onFault fuel [] s

end Sys2Proof.Machine
end

