-- ==== Sys2Proof/Certificates/Slice0/Obligations.lean ====
section
/-! DEFINITION. The statements for the provers. Each formalises rules of spec/ named in its docstring.

How an instruction's rule is stated: `Runs i bytes s Q` says that `i` has the encoding the rule gives it,
and that executing it in `s` COMPLETES in a next state `t` with `Q t`. `Q` gives PC, every result and flag
the rule names, what happens at the port, and a `Frame`: the registers, PSW bits, IRAM and XDATA bytes
that may differ, all others being as before. -/
namespace Sys2Proof.Claims
open Sys2Proof.Machine

/-- `i` is encoded as `bytes`, and executing it in `s` completes in a next state for which `Q` holds. -/
def Runs (i : Instr) (bytes : List Byte) (s : State) (Q : State → Prop) : Prop :=
  encode i = bytes ∧ ∃ t, exec i s = .next t ∧ Q t

/-- `PC <- (PC + len) mod 65536`. -/
def Goes (len : Nat) (s t : State) : Prop := t.pc.toNat = (s.pc.toNat + len) % 65536

/-- `PC <- Rel(e)` when the jump is taken, `PC <- PCn` when it is not (`30_encoding.md` R110). -/
def GoesRel (taken : Bool) (len : Nat) (e : Byte) (s t : State) : Prop :=
  if taken then (t.pc.toNat : Int) = ((s.pc.toNat : Int) + len + e.toInt) % 65536 else Goes len s t

/-- A has the value `v` and P its parity (`WriteA`, `10_state.md` R34). -/
def AIs (v : Byte) (t : State) : Prop := t.a = v ∧ t.p = parity v

/-- The result of `AddCore(x, c)` (`40_arithmetic.md` R140). -/
def Added (x : Byte) (c : Bool) (s t : State) : Prop :=
  t.a.toNat = (s.a.toNat + x.toNat + c.toNat) % 256 ∧ t.p = parity t.a ∧
  t.cy = decide (s.a.toNat + x.toNat + c.toNat > 255) ∧
  t.ac = decide (s.a.toNat % 16 + x.toNat % 16 + c.toNat > 15) ∧
  t.ov = (decide (s.a.toNat % 128 + x.toNat % 128 + c.toNat > 127) ^^
    decide (s.a.toNat + x.toNat + c.toNat > 255)) ∧
  Frame [.a] [7, 6, 2, 0] [] [] s t

/-- The result of `SubCore(x, c)` (`40_arithmetic.md` R141). -/
def Subtracted (x : Byte) (c : Bool) (s t : State) : Prop :=
  (t.a.toNat : Int) = ((s.a.toNat : Int) - x.toNat - c.toNat) % 256 ∧ t.p = parity t.a ∧
  t.cy = decide (s.a.toNat < x.toNat + c.toNat) ∧
  t.ac = decide (s.a.toNat % 16 < x.toNat % 16 + c.toNat) ∧
  t.ov = (decide (s.a.toNat % 128 < x.toNat % 128 + c.toNat) ^^ decide (s.a.toNat < x.toNat + c.toNat)) ∧
  Frame [.a] [7, 6, 2, 0] [] [] s t

/-- The byte `v` has been written at direct address `d`, the port standing as in `u` before: to the output
callback if one is registered there, else to IRAM (`20_memory.md` R69, R71). -/
def DirectWritten (u : State) (d v : Byte) (t : State) : Prop :=
  if u.writesPort d then
    t.inputs = u.inputs ∧ t.draws = u.draws ∧ t.trace = u.trace ++ [.output d v]
  else PortAs u t ∧ t.iramRead d = v

/-- The IRAM bytes a write at direct address `d` changes: that byte, or none when it goes to the port. -/
def cellsOf (u : State) (d : Byte) : List Byte := if u.writesPort d then [] else [d]

/-- What a read-modify-write of direct address `d` in `s` that stores `v` leaves: one routed read, one
routed write (`20_memory.md` R75), `len` bytes, no register and no flag. -/
def DirectModified (len : Nat) (d v : Byte) (s t : State) : Prop :=
  Goes len s t ∧ DirectWritten (s.dRead d).2 d v t ∧ Frame [] [] (cellsOf s d) [] s t

/-- The byte of bit address `b` with the bit of `b` replaced by `v`. -/
def byteWithBit (t : Byte) (b : Byte) (v : Bool) : Byte :=
  if v then t ||| (1#8 <<< (b.toNat % 8)) else t &&& ~~~(1#8 <<< (b.toNat % 8))

/-- The 44 mnemonics of `30_encoding.md` R124. -/
def mnemonics : List String :=
  ["ACALL", "ADD", "ADDC", "AJMP", "ANL", "CJNE", "CLR", "CPL", "DA", "DEC", "DIV", "DJNZ", "INC", "JB",
   "JBC", "JC", "JMP", "JNB", "JNC", "JNZ", "JZ", "LCALL"] ++
  ["LJMP", "MOV", "MOVC", "MOVX", "MUL", "NOP", "ORL", "POP", "PUSH", "RET", "RETI", "RL", "RLC", "RR",
   "RRC", "SETB", "SJMP", "SUBB", "SWAP", "XCH", "XCHD", "XRL"]

/-- The value of a packed-BCD byte. -/
def bcdValue (v : Byte) : Nat := v.toNat / 16 * 10 + v.toNat % 16

/-- Both digits of a byte are decimal. -/
def isBcd (v : Byte) : Prop := v.toNat / 16 ≤ 9 ∧ v.toNat % 16 ≤ 9

end Sys2Proof.Claims

open Sys2Proof Sys2Proof.Machine Sys2Proof.Claims

/-! ## Encoding and the step -/

/-- Decoding the bytes of any instruction, with anything after them, gives that instruction back and what
was after it (`30_encoding.md` R120, all 112 rows, every operand). -/
def Obligations.DecodeOfEncodeIsIdentity : Prop :=
  ∀ (i : Instr) (rest : List Byte), decode (encode i ++ rest) = .ok (i, rest)

/-- Whatever the decoder reads is exactly the bytes of the instruction it gives: every byte sequence has
one meaning (`30_encoding.md` R120, R122). -/
def Obligations.DecodedBytesAreTheEncoding : Prop :=
  ∀ (bs rest : List Byte) (i : Instr), decode bs = .ok (i, rest) → bs = encode i ++ rest

/-- The opcode table is total: every byte selects exactly one row, its length is 1, 2 or 3, its mnemonic
one of the 44, but for 0xA5, whose entry is ("unknown", 1) (`30_encoding.md` R126, S1). -/
def Obligations.OpcodeTableIsTotal : Prop :=
  (∀ op : Byte, (opcodeTable.filter (·.selects op)).length = 1) ∧
  (∀ op : Byte, (lookup op).selects op = true ∧ (lookup op).length ∈ [1, 2, 3]) ∧
  (∀ op : Byte, op ≠ 0xA5 → (lookup op).mnemonic ∈ mnemonics) ∧
  (lookup 0xA5).mnemonic = "unknown" ∧ (lookup 0xA5).length = 1

/-- Words written out bit by bit from the encoding column of `30_encoding.md` R120, one or more of each
family, decode to the instructions they stand for. -/
def Obligations.WordsOfEachFamilyDecode : Prop :=
  decodeBytes 0b00101011 0x00 0x00 = .addARn 3 ∧
  decodeBytes 0b10010100 0x7F 0x00 = .subbAImm 0x7F ∧
  decodeBytes 0b01010011 0x90 0x0F = .anlDirectImm 0x90 0x0F ∧
  decodeBytes 0b10000101 0x40 0x41 = .movDirectDirect 0x40 0x41 ∧
  decodeBytes 0b10010000 0x12 0x34 = .movDptrImm 0x1234 ∧
  decodeBytes 0b10100111 0x40 0x00 = .movIndDirect 1 0x40 ∧
  decodeBytes 0b00100000 0x07 0xFD = .jb 0x07 0xFD ∧
  decodeBytes 0b01110001 0x45 0x00 = .acall 0x345 ∧
  decodeBytes 0b10111111 0x60 0xFD = .cjneRnImm 7 0x60 0xFD ∧
  decodeBytes 0b10100101 0x00 0x00 = .reserved

/-- A STEP RUNS THE DECODED INSTRUCTION: when the bytes of an instruction stand in CODE at PC, the step is
`exec` of it in that state. The step adds nothing around `exec`: PC is moved by the instruction itself
(`30_encoding.md` R101, R104; `10_state.md` R28). -/
def Obligations.StepRunsTheDecodedInstruction : Prop :=
  (∀ (i : Instr) (s : State), s.CodeAtPc (encode i) → step s = exec i s) ∧
  (∀ (i : Instr) (s : State) (bs rest : List Byte),
    decode bs = .ok (i, rest) → s.CodeAtPc bs → step s = exec i s)

/-- The status of a step, in the order of the checks: MemoryFault for the opcode byte, MemoryFault for an
operand byte (the offset does not wrap), UnknownOpcode, the instruction's own check, OK
(`60_exceptions.md` R302, R304, R310; `30_encoding.md` R102). -/
def Obligations.StepStatusFollowsTheCheckOrder : Prop :=
  ∀ s : State,
    (s.pc.toNat ≥ s.codeSize → step s = .fault .memoryFault) ∧
    (s.pc.toNat < s.codeSize →
      (s.pc.toNat + (opcodeLength (s.code.read s.pc.toNat) - 1) ≥ s.codeSize → step s = .fault .memoryFault) ∧
      (s.pc.toNat + (opcodeLength (s.code.read s.pc.toNat) - 1) < s.codeSize →
        (s.code.read s.pc.toNat = 0xA5 → step s = .fault .unknownOpcode) ∧
        ∃ b1 b2, step s = exec (decodeBytes (s.code.read s.pc.toNat) b1 b2) s ∧
          (∀ f, (decodeBytes (s.code.read s.pc.toNat) b1 b2).check s = some f → step s = .fault f) ∧
          ((decodeBytes (s.code.read s.pc.toNat) b1 b2).check s = none → ∃ t, step s = .next t)))

/-- EVERY instruction completes unless its one check reports a fault, and then it raises exactly that fault
(`60_exceptions.md` R302, the table of stage 3; "every other instruction: none"). -/
def Obligations.ExecCompletesUnlessItsCheckFails : Prop :=
  ∀ (i : Instr) (s : State),
    (i.check s = none → ∃ t, exec i s = .next t) ∧ (∀ f, i.check s = some f → exec i s = .fault f)

/-- UnknownOpcode is raised by opcode 0xA5 and by no other, and only where it can be fetched; executing it
stops on every path (`44_control_transfer.md` R288, `60_exceptions.md` R305). -/
def Obligations.UnknownOpcodeOnlyFromA5 : Prop :=
  (∀ s : State, step s = .fault .unknownOpcode ↔
    s.pc.toNat < s.codeSize ∧ s.code.read s.pc.toNat = 0xA5) ∧
  encode .reserved = [0xA5] ∧ ∀ s : State, exec .reserved s = .fault .unknownOpcode

/-- The statuses have the codes 0 to 4 (`60_exceptions.md` R300), and every step of every state has one of
the five: none is refused. -/
def Obligations.EveryStepHasOneOfFiveStatuses : Prop :=
  (Fault.code .unknownOpcode = 1 ∧ Fault.code .memoryFault = 2 ∧ Fault.code .stackOverflow = 3 ∧
    Fault.code .stackUnderflow = 4) ∧
  ∀ s : State, (∃ t, step s = .next t ∧ statusCode (step s) = some 0) ∨
    ∃ f, step s = .fault f ∧ statusCode (step s) = some f.code

/-! ## Reset and invariants -/

/-- Reset leaves PC, A, B, PSW, SP and DPTR at the values of `70_reset_and_hazards.md` R340 whatever IRAM
holds, and touches neither memory of the platform nor its registry (R342); `State.reset` is such a
state. -/
def Obligations.ResetGivesTheResetValues : Prop :=
  (∀ (iram : Memory) (s : State), ∃ t, t = s.applyReset iram ∧
    t.pc = 0x0000 ∧ t.a = 0x00 ∧ t.b = 0x00 ∧ t.psw = 0x00 ∧ t.sp = 0x07 ∧ t.dptr = 0x0000 ∧
    t.code = s.code ∧ t.codeSize = s.codeSize ∧ t.xdata = s.xdata ∧ t.xdataSize = s.xdataSize ∧
    t.inReg = s.inReg ∧ t.outReg = s.outReg) ∧
  State.reset = State.reset.applyReset State.reset.iram

/-- The model's `State.reset` is a legal state, and so is every reset with any IRAM contents on any legal
platform. (Legal is the model's invariant, log 9; the launch values are DESIGN CHOICEs, logs 1 to 3.) -/
def Obligations.ResetStatesAreLegal : Prop :=
  State.reset.Legal ∧
  ∀ (iram : Memory) (s : State), s.Legal → iram.wf → iram.below 256 → (s.applyReset iram).Legal

/-- AN INVARIANT EVERY STEP KEEPS: the three memories stay in canonical form inside their spaces, the sizes
and the registry stay what they are allowed to be (log 9; `10_state.md` R20, `20_memory.md` R62, R63,
R76). -/
def Obligations.StepKeepsStatesLegal : Prop := ∀ s t : State, s.Legal → step s = .next t → t.Legal

/-- Parity is an invariant of every step; reset satisfies it; from a launch state without it, P keeps its
value until A is written (`10_state.md` R34, R35). -/
def Obligations.StepKeepsParity : Prop :=
  (∀ s t : State, s.ParityHolds → step s = .next t → t.ParityHolds) ∧
  (∀ (iram : Memory) (s : State), (s.applyReset iram).ParityHolds) ∧
  (∀ s t : State, step s = .next t → t.p = parity t.a ∨ (t.p = s.p ∧ t.a = s.a))

/-- What changes where, over all instructions: F0, RS1, RS0, F1 never; B only in MUL and DIV; SP only in the
stack instructions; DPTR only in `MOV DPTR` and `INC DPTR`; XDATA only in the two MOVX stores; CODE never
(`10_state.md` R41, `20_memory.md` R84). -/
def Obligations.RegistersChangeOnlyInTheirInstructions : Prop :=
  ∀ (i : Instr) (s t : State), exec i s = .next t →
    (t.f0 = s.f0 ∧ t.rs1 = s.rs1 ∧ t.rs0 = s.rs0 ∧ t.f1 = s.f1) ∧
    (t.b ≠ s.b → i = .mulAB ∨ i = .divAB) ∧
    (t.sp ≠ s.sp → (∃ d, i = .push d) ∨ (∃ d, i = .pop d) ∨ (∃ a, i = .acall a) ∨ (∃ a, i = .lcall a) ∨
      i = .ret ∨ i = .reti) ∧
    (t.dptr ≠ s.dptr → (∃ k, i = .movDptrImm k) ∨ i = .incDptr) ∧
    (t.xdata ≠ s.xdata → (∃ j, i = .movxIndA j) ∨ i = .movxDptrA) ∧
    (t.code = s.code ∧ t.codeSize = s.codeSize ∧ t.xdataSize = s.xdataSize ∧ t.inReg = s.inReg ∧
      t.outReg = s.outReg)

/-- A, B, PSW, SP, DPTR and PC are at no address: no raw, direct or bit write changes one of them, and no
read depends on one of them (`10_state.md` R41). -/
def Obligations.CoreRegistersHaveNoAddress : Prop :=
  ∀ (s : State) (d v : Byte) (w : Bool) (pc dptr : Word) (a b psw sp : Byte),
    (∀ t, t = s.dWrite d v ∨ t = s.iramWrite d v ∨ t = s.bitWrite d w →
      t.a = s.a ∧ t.b = s.b ∧ t.psw = s.psw ∧ t.sp = s.sp ∧ t.dptr = s.dptr ∧ t.pc = s.pc) ∧
    (∀ u, u = { s with pc := pc, dptr := dptr, a := a, b := b, psw := psw, sp := sp } →
      (u.dRead d).1 = (s.dRead d).1 ∧ u.iramRead d = s.iramRead d ∧ (u.bitRead d).1 = (s.bitRead d).1)

/-- An instruction that performs no control transfer advances PC by its length, modulo 65536
(`10_state.md` R28, `30_encoding.md` R103). -/
def Obligations.PcAdvancesByTheLength : Prop :=
  ∀ (i : Instr) (s t : State), i.transfers = false → exec i s = .next t → Goes i.length s t

/-- A step makes at most one input and at most one output transaction, the input first, each at a window
address that is registered for it (`20_memory.md` R67, R79; `70_reset_and_hazards.md` R355). -/
def Obligations.AtMostOneInputThenOneOutput : Prop :=
  ∀ (i : Instr) (s t : State), exec i s = .next t →
    ∃ ins outs, t.trace = s.trace ++ (ins ++ outs) ∧
      (ins = [] ∨ ∃ a v, ins = [.input a v] ∧ 0x80 ≤ a ∧ a ∈ s.inReg) ∧
      (outs = [] ∨ ∃ a v, outs = [.output a v] ∧ 0x80 ≤ a ∧ a ∈ s.outReg)

/-! ## Registers, routed access, bits -/

/-- The bank base is PSW[4:3] * 8; `Rn` is the IRAM byte at bank base + n, at most 31, so never routed; a
write of `Rn` is read back and changes no other byte; `@Ri` is the IRAM byte that `Ri` points to, raw
(`10_state.md` R30, R31, R32, R40). -/
def Obligations.RegisterAndIndirectAddressing : Prop :=
  ∀ (s : State) (n : RegIndex) (i : PtrIndex) (v : Byte), s.Legal →
    s.bankBase.toNat = s.psw.toNat / 8 % 4 * 8 ∧
    (s.regAddr n).toNat = s.bankBase.toNat + n.toNat ∧ (s.regAddr n).toNat ≤ 31 ∧
    s.regRead n = s.iramRead (s.regAddr n) ∧
    (s.regWrite n v).regRead n = v ∧ IramKeptBut [s.regAddr n] s (s.regWrite n v) ∧
    s.ptr i = s.iramRead (s.regAddr (i.setWidth 3)) ∧ s.indRead i = s.iramRead (s.ptr i) ∧
    (s.indWrite i v).iramRead (s.ptr i) = v ∧ IramKeptBut [s.ptr i] s (s.indWrite i v) ∧
    PortAs s (s.regWrite n v) ∧ PortAs s (s.indWrite i v)

/-- `R0` and `R7` of one bank differ, and two registers of one bank are never the same byte
(`10_state.md` R31). -/
def Obligations.RegistersOfABankDiffer : Prop :=
  ∀ (s : State) (m n : RegIndex), s.regAddr m = s.regAddr n → m = n

/-- A routed read: at 0x80 and above with an input callback, one input transaction, which delivers what the
environment supplies (anything) and is recorded; else the IRAM byte and nothing else (`20_memory.md` R68,
R70). That the byte is the head of the queue `inputs` while there is one, and that `draws` counts the
transactions, is the model's choice of how to hold the free input (log 4); that the event stands in `trace`
is its choice to keep one (log 5). -/
def Obligations.RoutedReadGoesToThePortOrIram : Prop :=
  ∀ (s : State) (a : Byte),
    (0x80 ≤ a ∧ a ∈ s.inReg → ∃ v u, s.dRead a = (v, u) ∧
      (∀ w ws, s.inputs = w :: ws → v = w ∧ u.inputs = ws) ∧
      u.draws = s.draws + 1 ∧ u.trace = s.trace ++ [.input a v] ∧
      Frame [] [] [] [] s u ∧ u.pc = s.pc) ∧
    (¬(0x80 ≤ a ∧ a ∈ s.inReg) → s.dRead a = (s.iramRead a, s))

/-- A routed write: at 0x80 and above with an output callback, one output transaction, which leaves IRAM
alone; else the IRAM byte and no other (`20_memory.md` R69, R71). -/
def Obligations.RoutedWriteGoesToThePortOrIram : Prop :=
  ∀ (s : State) (a v : Byte), s.Legal →
    (0x80 ≤ a ∧ a ∈ s.outReg → ∃ t, t = s.dWrite a v ∧ t.trace = s.trace ++ [.output a v] ∧
      t.inputs = s.inputs ∧ t.draws = s.draws ∧ Frame [] [] [] [] s t ∧ t.pc = s.pc) ∧
    (¬(0x80 ≤ a ∧ a ∈ s.outReg) → ∃ t, t = s.dWrite a v ∧ PortAs s t ∧ t.iramRead a = v ∧
      Frame [] [] [a] [] s t ∧ t.pc = s.pc)

/-- `BitAddr`: bit addresses below 0x80 are the bits of IRAM bytes 0x20 to 0x2F, those from 0x80 up the bits
of the direct addresses that are multiples of 8; `BitRead` and `BitWrite` are one routed read, and one
routed read then one routed write (`20_memory.md` R72, R73, R74). -/
def Obligations.BitOperandsAreBitsOfRoutedBytes : Prop :=
  ∀ (s : State) (b : Byte) (v : Bool),
    (b.toNat < 128 → (bitByte b).toNat = 32 + b.toNat / 8) ∧
    (128 ≤ b.toNat → (bitByte b).toNat = b.toNat / 8 * 8) ∧ bitPos b = b.toNat % 8 ∧
    s.bitRead b = ((s.dRead (bitByte b)).1.getLsbD (b.toNat % 8), (s.dRead (bitByte b)).2) ∧
    s.bitWrite b v = (s.dRead (bitByte b)).2.dWrite (bitByte b) (byteWithBit (s.dRead (bitByte b)).1 b v)

/-- Where no callback is registered for its byte, a bit written is read back, and every other bit address
outside the callbacks reads as before (`20_memory.md` R72 to R74). -/
def Obligations.BitWriteChangesOneBit : Prop :=
  ∀ (s : State) (b c : Byte) (v : Bool), s.Legal →
    s.readsPort (bitByte b) = false → s.writesPort (bitByte b) = false → s.readsPort (bitByte c) = false →
    ((s.bitWrite b v).bitRead c).1 = if c = b then v else (s.bitRead c).1

/-! ## The stack -/

/-- `PushByte` and `PopByte`: the bounds, the byte stored, and that nothing else changes, PC and the port
included (`10_state.md` R36, R37). That a pop after a push gives the byte and SP back follows from the two
together; R39 asks for it as a law. -/
def Obligations.PushByteThenPopByte : Prop :=
  ∀ (s : State) (v : Byte), s.Legal →
    (s.sp = 0xFF → s.pushByte v = .error .stackOverflow) ∧
    (s.sp = 0x00 → s.popByte = .error .stackUnderflow) ∧
    (s.sp ≠ 0x00 → ∃ u, s.popByte = .ok (s.iramRead s.sp, u) ∧ u.sp.toNat = s.sp.toNat - 1 ∧
      Frame [.sp] [] [] [] s u ∧ PortAs s u ∧ u.pc = s.pc) ∧
    (s.sp ≠ 0xFF → ∃ t u, s.pushByte v = .ok t ∧ t.sp.toNat = s.sp.toNat + 1 ∧ t.iramRead t.sp = v ∧
      Frame [.sp] [] [t.sp] [] s t ∧ PortAs s t ∧ t.pc = s.pc ∧
      t.popByte = .ok (v, u) ∧ u.sp = s.sp ∧ Frame [] [] [t.sp] [] s u ∧ PortAs s u ∧ u.pc = s.pc)

/-- `PushWord` and `PopWord`: the bounds, low byte at SP+1 and high byte at SP+2, that nothing else changes, PC
and the port included, and that a pop after a push gives the word and SP back (`10_state.md` R38, R39). -/
def Obligations.PushWordThenPopWord : Prop :=
  ∀ (s : State) (w : Word), s.Legal →
    (s.sp.toNat ≥ 0xFE → s.pushWord w = .error .stackOverflow) ∧
    (s.sp.toNat ≤ 0x01 → s.popWord = .error .stackUnderflow) ∧
    (s.sp.toNat > 0x01 → ∃ r u, s.popWord = .ok (r, u) ∧
      r.toNat = (s.iramRead s.sp).toNat * 256 + (s.iramRead (s.sp - 1)).toNat ∧
      u.sp.toNat = s.sp.toNat - 2 ∧ Frame [.sp] [] [] [] s u ∧ PortAs s u ∧ u.pc = s.pc) ∧
    (s.sp.toNat < 0xFE → ∃ t u, s.pushWord w = .ok t ∧ t.sp.toNat = s.sp.toNat + 2 ∧
      (t.iramRead (s.sp + 1)).toNat = w.toNat % 256 ∧ (t.iramRead (s.sp + 2)).toNat = w.toNat / 256 ∧
      Frame [.sp] [] [s.sp + 1, s.sp + 2] [] s t ∧ PortAs s t ∧ t.pc = s.pc ∧
      t.popWord = .ok (w, u) ∧ u.sp = s.sp ∧ Frame [] [] [s.sp + 1, s.sp + 2] [] s u ∧ PortAs s u ∧
      u.pc = s.pc)

/-! ## Arithmetic -/

/-- ADD and ADDC, all eight forms (`40_arithmetic.md` R140, R142 to R149). -/
def Obligations.AddAndAddcResults : Prop :=
  ∀ s : State,
    (∀ n, Runs (.addARn n) [0b00101#5 ++ n] s fun t =>
      Goes 1 s t ∧ Added (s.regRead n) false s t ∧ PortAs s t) ∧
    (∀ d, Runs (.addADirect d) [0x25, d] s fun t =>
      Goes 2 s t ∧ Added (s.dRead d).1 false s t ∧ PortAs (s.dRead d).2 t) ∧
    (∀ i, Runs (.addAInd i) [0b0010011#7 ++ i] s fun t =>
      Goes 1 s t ∧ Added (s.indRead i) false s t ∧ PortAs s t) ∧
    (∀ k, Runs (.addAImm k) [0x24, k] s fun t => Goes 2 s t ∧ Added k false s t ∧ PortAs s t) ∧
    (∀ n, Runs (.addcARn n) [0b00111#5 ++ n] s fun t =>
      Goes 1 s t ∧ Added (s.regRead n) s.cy s t ∧ PortAs s t) ∧
    (∀ d, Runs (.addcADirect d) [0x35, d] s fun t =>
      Goes 2 s t ∧ Added (s.dRead d).1 s.cy s t ∧ PortAs (s.dRead d).2 t) ∧
    (∀ i, Runs (.addcAInd i) [0b0011011#7 ++ i] s fun t =>
      Goes 1 s t ∧ Added (s.indRead i) s.cy s t ∧ PortAs s t) ∧
    (∀ k, Runs (.addcAImm k) [0x34, k] s fun t => Goes 2 s t ∧ Added k s.cy s t ∧ PortAs s t)

/-- SUBB, all four forms (`40_arithmetic.md` R141, R150 to R153). -/
def Obligations.SubbResults : Prop :=
  ∀ s : State,
    (∀ n, Runs (.subbARn n) [0b10011#5 ++ n] s fun t =>
      Goes 1 s t ∧ Subtracted (s.regRead n) s.cy s t ∧ PortAs s t) ∧
    (∀ d, Runs (.subbADirect d) [0x95, d] s fun t =>
      Goes 2 s t ∧ Subtracted (s.dRead d).1 s.cy s t ∧ PortAs (s.dRead d).2 t) ∧
    (∀ i, Runs (.subbAInd i) [0b1001011#7 ++ i] s fun t =>
      Goes 1 s t ∧ Subtracted (s.indRead i) s.cy s t ∧ PortAs s t) ∧
    (∀ k, Runs (.subbAImm k) [0x94, k] s fun t => Goes 2 s t ∧ Subtracted k s.cy s t ∧ PortAs s t)

/-- The two cores as operations: what they give, and that OV says exactly that the SIGNED result lies outside
-128 to 127, CY that the unsigned one lies outside 0 to 255 (`40_arithmetic.md` R140, R141: "OV = 1 exactly
when ..."). -/
def Obligations.OverflowIsSignedOverflow : Prop :=
  ∀ (s : State) (x : Byte) (c : Bool),
    (Added x c s (s.addCore x c) ∧ PortAs s (s.addCore x c) ∧ (s.addCore x c).pc = s.pc) ∧
    ((s.addCore x c).ov = true ↔
      s.a.toInt + x.toInt + c.toNat < -128 ∨ s.a.toInt + x.toInt + c.toNat > 127) ∧
    ((s.addCore x c).cy = true ↔ s.a.toNat + x.toNat + c.toNat > 255) ∧
    (Subtracted x c s (s.subCore x c) ∧ PortAs s (s.subCore x c) ∧ (s.subCore x c).pc = s.pc) ∧
    ((s.subCore x c).ov = true ↔
      s.a.toInt - x.toInt - c.toNat < -128 ∨ s.a.toInt - x.toInt - c.toNat > 127) ∧
    ((s.subCore x c).cy = true ↔ (s.a.toNat : Int) - x.toNat - c.toNat < 0)

/-- INC A, DEC A and INC DPTR: modulo 256 or 65536, no flag but P, and P with A only
(`40_arithmetic.md` R154, R158, R159). -/
def Obligations.IncDecOfAAndDptr : Prop :=
  ∀ s : State,
    (Runs .incA [0x04] s fun t => Goes 1 s t ∧ t.a.toNat = (s.a.toNat + 1) % 256 ∧ t.p = parity t.a ∧
      Frame [.a] [0] [] [] s t ∧ PortAs s t) ∧
    (Runs .decA [0x14] s fun t => Goes 1 s t ∧ t.a.toNat = (s.a.toNat + 255) % 256 ∧ t.p = parity t.a ∧
      Frame [.a] [0] [] [] s t ∧ PortAs s t) ∧
    (Runs .incDptr [0xA3] s fun t => Goes 1 s t ∧ t.dptr.toNat = (s.dptr.toNat + 1) % 65536 ∧
      Frame [.dptr] [] [] [] s t ∧ PortAs s t)

/-- INC and DEC of a register or an indirect byte: that byte modulo 256, no flag
(`40_arithmetic.md` R155, R157, R160, R162). -/
def Obligations.IncDecOfRegisterAndIndirect : Prop :=
  ∀ s : State, s.Legal →
    (∀ n, Runs (.incRn n) [0b00001#5 ++ n] s fun t => Goes 1 s t ∧
      (t.regRead n).toNat = ((s.regRead n).toNat + 1) % 256 ∧ Frame [] [] [s.regAddr n] [] s t ∧ PortAs s t) ∧
    (∀ i, Runs (.incInd i) [0b0000011#7 ++ i] s fun t => Goes 1 s t ∧
      (t.iramRead (s.ptr i)).toNat = ((s.indRead i).toNat + 1) % 256 ∧
      Frame [] [] [s.ptr i] [] s t ∧ PortAs s t) ∧
    (∀ n, Runs (.decRn n) [0b00011#5 ++ n] s fun t => Goes 1 s t ∧
      (t.regRead n).toNat = ((s.regRead n).toNat + 255) % 256 ∧ Frame [] [] [s.regAddr n] [] s t ∧ PortAs s t) ∧
    (∀ i, Runs (.decInd i) [0b0001011#7 ++ i] s fun t => Goes 1 s t ∧
      (t.iramRead (s.ptr i)).toNat = ((s.indRead i).toNat + 255) % 256 ∧
      Frame [] [] [s.ptr i] [] s t ∧ PortAs s t)

/-- INC direct and DEC direct: one routed read, one routed write, no flag (`40_arithmetic.md` R156, R161). -/
def Obligations.IncDecOfDirect : Prop :=
  ∀ (s : State) (d : Byte), s.Legal →
    (Runs (.incDirect d) [0x05, d] s (DirectModified 2 d ((s.dRead d).1 + 1) s)) ∧
    (Runs (.decDirect d) [0x15, d] s (DirectModified 2 d ((s.dRead d).1 - 1) s))

/-- MUL AB: the unsigned 16-bit product in B:A, CY cleared, OV exactly when it exceeds 255, AC kept
(`40_arithmetic.md` R163). -/
def Obligations.MulResult : Prop :=
  ∀ s : State, Runs .mulAB [0xA4] s fun t => Goes 1 s t ∧
    t.b.toNat * 256 + t.a.toNat = s.a.toNat * s.b.toNat ∧ t.p = parity t.a ∧ t.cy = false ∧
    t.ov = decide (s.a.toNat * s.b.toNat > 255) ∧ Frame [.a, .b] [7, 2, 0] [] [] s t ∧ PortAs s t

/-- DIV AB: quotient in A, remainder in B, CY and OV cleared, AC kept; a zero divisor leaves A, B and P and
sets OV (`40_arithmetic.md` R164, `90_conflicts.md` C14). -/
def Obligations.DivResult : Prop :=
  ∀ s : State, Runs .divAB [0x84] s fun t => Goes 1 s t ∧ t.cy = false ∧ PortAs s t ∧
    (s.b = 0 → t.ov = true ∧ Frame [] [7, 2] [] [] s t) ∧
    (s.b ≠ 0 → t.a.toNat * s.b.toNat + t.b.toNat = s.a.toNat ∧ t.b.toNat < s.b.toNat ∧
      t.p = parity t.a ∧ t.ov = false ∧ Frame [.a, .b] [7, 2, 0] [] [] s t)

/-- DA A: the two corrections in order, the second seeing the carry of the first; CY set and never cleared,
AC and OV kept (`40_arithmetic.md` R165). -/
def Obligations.DaResult : Prop :=
  ∀ s : State, Runs .daA [0xD4] s fun t =>
    ∃ x y : Nat, ∃ c : Bool,
      x = s.a.toNat + (if s.a.toNat % 16 > 9 ∨ s.ac = true then 6 else 0) ∧
      c = (s.cy || decide (x > 255)) ∧
      y = x % 256 + (if x % 256 / 16 > 9 ∨ c = true then 96 else 0) ∧
      t.a.toNat = y % 256 ∧ t.cy = (c || decide (y > 255)) ∧ t.p = parity t.a ∧
      Goes 1 s t ∧ Frame [.a] [7, 0] [] [] s t ∧ PortAs s t

/-- DA A after ADD or ADDC of packed-BCD bytes gives the packed-BCD sum, its hundred in CY
(`40_arithmetic.md` R165: "It corrects the binary sum of two packed-BCD bytes"). -/
def Obligations.DaCorrectsBcdAddition : Prop :=
  ∀ (s : State) (x : Byte) (c : Bool), isBcd s.a → isBcd x →
    ∃ t, exec .daA (s.addCore x c) = .next t ∧ isBcd t.a ∧
      bcdValue t.a + 100 * t.cy.toNat = bcdValue s.a + bcdValue x + c.toNat

/-! ## Logical -/

/-- ANL, ORL, XRL to the accumulator, all twelve forms: A and P and nothing else
(`41_logical.md` R171 to R174, R177 to R180, R183 to R186). -/
def Obligations.LogicalToAccumulator : Prop :=
  ∀ s : State,
    (∀ n, Runs (.anlARn n) [0b01011#5 ++ n] s fun t =>
      Goes 1 s t ∧ AIs (s.a &&& s.regRead n) t ∧ Frame [.a] [0] [] [] s t ∧ PortAs s t) ∧
    (∀ d, Runs (.anlADirect d) [0x55, d] s fun t =>
      Goes 2 s t ∧ AIs (s.a &&& (s.dRead d).1) t ∧ Frame [.a] [0] [] [] s t ∧ PortAs (s.dRead d).2 t) ∧
    (∀ i, Runs (.anlAInd i) [0b0101011#7 ++ i] s fun t =>
      Goes 1 s t ∧ AIs (s.a &&& s.indRead i) t ∧ Frame [.a] [0] [] [] s t ∧ PortAs s t) ∧
    (∀ k, Runs (.anlAImm k) [0x54, k] s fun t =>
      Goes 2 s t ∧ AIs (s.a &&& k) t ∧ Frame [.a] [0] [] [] s t ∧ PortAs s t) ∧
    (∀ n, Runs (.orlARn n) [0b01001#5 ++ n] s fun t =>
      Goes 1 s t ∧ AIs (s.a ||| s.regRead n) t ∧ Frame [.a] [0] [] [] s t ∧ PortAs s t) ∧
    (∀ d, Runs (.orlADirect d) [0x45, d] s fun t =>
      Goes 2 s t ∧ AIs (s.a ||| (s.dRead d).1) t ∧ Frame [.a] [0] [] [] s t ∧ PortAs (s.dRead d).2 t) ∧
    (∀ i, Runs (.orlAInd i) [0b0100011#7 ++ i] s fun t =>
      Goes 1 s t ∧ AIs (s.a ||| s.indRead i) t ∧ Frame [.a] [0] [] [] s t ∧ PortAs s t) ∧
    (∀ k, Runs (.orlAImm k) [0x44, k] s fun t =>
      Goes 2 s t ∧ AIs (s.a ||| k) t ∧ Frame [.a] [0] [] [] s t ∧ PortAs s t) ∧
    (∀ n, Runs (.xrlARn n) [0b01101#5 ++ n] s fun t =>
      Goes 1 s t ∧ AIs (s.a ^^^ s.regRead n) t ∧ Frame [.a] [0] [] [] s t ∧ PortAs s t) ∧
    (∀ d, Runs (.xrlADirect d) [0x65, d] s fun t =>
      Goes 2 s t ∧ AIs (s.a ^^^ (s.dRead d).1) t ∧ Frame [.a] [0] [] [] s t ∧ PortAs (s.dRead d).2 t) ∧
    (∀ i, Runs (.xrlAInd i) [0b0110011#7 ++ i] s fun t =>
      Goes 1 s t ∧ AIs (s.a ^^^ s.indRead i) t ∧ Frame [.a] [0] [] [] s t ∧ PortAs s t) ∧
    (∀ k, Runs (.xrlAImm k) [0x64, k] s fun t =>
      Goes 2 s t ∧ AIs (s.a ^^^ k) t ∧ Frame [.a] [0] [] [] s t ∧ PortAs s t)

/-- ANL, ORL, XRL to a direct address: one routed read, one routed write, no register and no flag
(`41_logical.md` R175, R176, R181, R182, R187, R188). -/
def Obligations.LogicalToDirect : Prop :=
  ∀ (s : State) (d : Byte), s.Legal →
    (Runs (.anlDirectA d) [0x52, d] s (DirectModified 2 d ((s.dRead d).1 &&& s.a) s)) ∧
    (∀ k, Runs (.anlDirectImm d k) [0x53, d, k] s (DirectModified 3 d ((s.dRead d).1 &&& k) s)) ∧
    (Runs (.orlDirectA d) [0x42, d] s (DirectModified 2 d ((s.dRead d).1 ||| s.a) s)) ∧
    (∀ k, Runs (.orlDirectImm d k) [0x43, d, k] s (DirectModified 3 d ((s.dRead d).1 ||| k) s)) ∧
    (Runs (.xrlDirectA d) [0x62, d] s (DirectModified 2 d ((s.dRead d).1 ^^^ s.a) s)) ∧
    (∀ k, Runs (.xrlDirectImm d k) [0x63, d, k] s (DirectModified 3 d ((s.dRead d).1 ^^^ k) s))

/-- CLR, CPL, RL, RLC, RR, RRC, SWAP: the rotates as moves of bits, CY in RLC and RRC only
(`41_logical.md` R189 to R195). -/
def Obligations.AccumulatorOnlyResults : Prop :=
  ∀ s : State,
    (Runs .clrA [0xE4] s fun t => Goes 1 s t ∧ AIs 0x00 t ∧ Frame [.a] [0] [] [] s t ∧ PortAs s t) ∧
    (Runs .cplA [0xF4] s fun t => Goes 1 s t ∧ AIs (~~~s.a) t ∧ Frame [.a] [0] [] [] s t ∧ PortAs s t) ∧
    (Runs .rlA [0x23] s fun t =>
      Goes 1 s t ∧ AIs (s.a.extractLsb' 0 7 ++ s.a.extractLsb' 7 1) t ∧ Frame [.a] [0] [] [] s t ∧ PortAs s t) ∧
    (Runs .rlcA [0x33] s fun t =>
      Goes 1 s t ∧ AIs (s.a.extractLsb' 0 7 ++ s.psw.extractLsb' 7 1) t ∧ t.cy = s.a.getLsbD 7 ∧
      Frame [.a] [7, 0] [] [] s t ∧ PortAs s t) ∧
    (Runs .rrA [0x03] s fun t =>
      Goes 1 s t ∧ AIs (s.a.extractLsb' 0 1 ++ s.a.extractLsb' 1 7) t ∧ Frame [.a] [0] [] [] s t ∧ PortAs s t) ∧
    (Runs .rrcA [0x13] s fun t =>
      Goes 1 s t ∧ AIs (s.psw.extractLsb' 7 1 ++ s.a.extractLsb' 1 7) t ∧ t.cy = s.a.getLsbD 0 ∧
      Frame [.a] [7, 0] [] [] s t ∧ PortAs s t) ∧
    (Runs .swapA [0xC4] s fun t =>
      Goes 1 s t ∧ AIs (s.a.extractLsb' 0 4 ++ s.a.extractLsb' 4 4) t ∧ Frame [.a] [0] [] [] s t ∧ PortAs s t)

/-! ## Data transfer -/

/-- MOV to the accumulator (`42_data_transfer.md` R201 to R204). -/
def Obligations.MovToAccumulator : Prop :=
  ∀ s : State,
    (∀ n, Runs (.movARn n) [0b11101#5 ++ n] s fun t =>
      Goes 1 s t ∧ AIs (s.regRead n) t ∧ Frame [.a] [0] [] [] s t ∧ PortAs s t) ∧
    (∀ d, Runs (.movADirect d) [0xE5, d] s fun t =>
      Goes 2 s t ∧ AIs (s.dRead d).1 t ∧ Frame [.a] [0] [] [] s t ∧ PortAs (s.dRead d).2 t) ∧
    (∀ i, Runs (.movAInd i) [0b1110011#7 ++ i] s fun t =>
      Goes 1 s t ∧ AIs (s.indRead i) t ∧ Frame [.a] [0] [] [] s t ∧ PortAs s t) ∧
    (∀ k, Runs (.movAImm k) [0x74, k] s fun t =>
      Goes 2 s t ∧ AIs k t ∧ Frame [.a] [0] [] [] s t ∧ PortAs s t)

/-- MOV to a register, and MOV DPTR (`42_data_transfer.md` R205, R206, R207, R216). -/
def Obligations.MovToRegister : Prop :=
  ∀ s : State, s.Legal →
    (∀ n, Runs (.movRnA n) [0b11111#5 ++ n] s fun t =>
      Goes 1 s t ∧ t.regRead n = s.a ∧ Frame [] [] [s.regAddr n] [] s t ∧ PortAs s t) ∧
    (∀ n d, Runs (.movRnDirect n d) [0b10101#5 ++ n, d] s fun t =>
      Goes 2 s t ∧ t.regRead n = (s.dRead d).1 ∧ Frame [] [] [s.regAddr n] [] s t ∧ PortAs (s.dRead d).2 t) ∧
    (∀ n k, Runs (.movRnImm n k) [0b01111#5 ++ n, k] s fun t =>
      Goes 2 s t ∧ t.regRead n = k ∧ Frame [] [] [s.regAddr n] [] s t ∧ PortAs s t) ∧
    (∀ hi lo : Byte, Runs (.movDptrImm (hi ++ lo)) [0x90, hi, lo] s fun t =>
      Goes 3 s t ∧ t.dptr.toNat = hi.toNat * 256 + lo.toNat ∧ Frame [.dptr] [] [] [] s t ∧ PortAs s t)

/-- MOV to a direct address, routed; `MOV direct,direct` has its SOURCE in the first operand byte and reads
before it writes (`42_data_transfer.md` R208 to R212). -/
def Obligations.MovToDirect : Prop :=
  ∀ (s : State) (d : Byte), s.Legal →
    (Runs (.movDirectA d) [0xF5, d] s fun t =>
      Goes 2 s t ∧ DirectWritten s d s.a t ∧ Frame [] [] (cellsOf s d) [] s t) ∧
    (∀ n, Runs (.movDirectRn n d) [0b10001#5 ++ n, d] s fun t =>
      Goes 2 s t ∧ DirectWritten s d (s.regRead n) t ∧ Frame [] [] (cellsOf s d) [] s t) ∧
    (∀ src, Runs (.movDirectDirect src d) [0x85, src, d] s fun t =>
      Goes 3 s t ∧ DirectWritten (s.dRead src).2 d (s.dRead src).1 t ∧ Frame [] [] (cellsOf s d) [] s t) ∧
    (∀ i, Runs (.movDirectInd i d) [0b1000011#7 ++ i, d] s fun t =>
      Goes 2 s t ∧ DirectWritten s d (s.indRead i) t ∧ Frame [] [] (cellsOf s d) [] s t) ∧
    (∀ k, Runs (.movDirectImm d k) [0x75, d, k] s fun t =>
      Goes 3 s t ∧ DirectWritten s d k t ∧ Frame [] [] (cellsOf s d) [] s t)

/-- MOV to an indirect address: the byte the pointer addresses BEFORE the write, raw
(`42_data_transfer.md` R213, R214, R215). -/
def Obligations.MovToIndirect : Prop :=
  ∀ (s : State) (i : PtrIndex), s.Legal →
    (Runs (.movIndA i) [0b1111011#7 ++ i] s fun t =>
      Goes 1 s t ∧ t.iramRead (s.ptr i) = s.a ∧ Frame [] [] [s.ptr i] [] s t ∧ PortAs s t) ∧
    (∀ d, Runs (.movIndDirect i d) [0b1010011#7 ++ i, d] s fun t =>
      Goes 2 s t ∧ t.iramRead (s.ptr i) = (s.dRead d).1 ∧ Frame [] [] [s.ptr i] [] s t ∧
      PortAs (s.dRead d).2 t) ∧
    (∀ k, Runs (.movIndImm i k) [0b0111011#7 ++ i, k] s fun t =>
      Goes 2 s t ∧ t.iramRead (s.ptr i) = k ∧ Frame [] [] [s.ptr i] [] s t ∧ PortAs s t)

/-- MOVC: the CODE byte at (A + DPTR) or (A + PC + 1), modulo 65536; MemoryFault at or beyond CODE_SIZE
(`42_data_transfer.md` R217, R218). -/
def Obligations.MovcReadsCode : Prop :=
  ∀ s : State,
    ((s.a.toNat + s.dptr.toNat) % 65536 ≥ s.codeSize → exec .movcADptr s = .fault .memoryFault) ∧
    ((s.a.toNat + s.dptr.toNat) % 65536 < s.codeSize → Runs .movcADptr [0x93] s fun t =>
      Goes 1 s t ∧ AIs (s.code.read ((s.a.toNat + s.dptr.toNat) % 65536)) t ∧ Frame [.a] [0] [] [] s t ∧
      PortAs s t) ∧
    ((s.a.toNat + (s.pc.toNat + 1)) % 65536 ≥ s.codeSize → exec .movcAPc s = .fault .memoryFault) ∧
    ((s.a.toNat + (s.pc.toNat + 1)) % 65536 < s.codeSize → Runs .movcAPc [0x83] s fun t =>
      Goes 1 s t ∧ AIs (s.code.read ((s.a.toNat + (s.pc.toNat + 1)) % 65536)) t ∧ Frame [.a] [0] [] [] s t ∧
      PortAs s t)

/-- MOVX to A: the XDATA byte at the pointer (high byte 0) or at DPTR; MemoryFault at or beyond XDATA_SIZE
(`42_data_transfer.md` R219, R220). -/
def Obligations.MovxReadsXdata : Prop :=
  ∀ (s : State) (i : PtrIndex),
    ((s.ptr i).toNat ≥ s.xdataSize → exec (.movxAInd i) s = .fault .memoryFault) ∧
    ((s.ptr i).toNat < s.xdataSize → Runs (.movxAInd i) [0b1110001#7 ++ i] s fun t =>
      Goes 1 s t ∧ AIs (s.xdata.read (s.ptr i).toNat) t ∧ Frame [.a] [0] [] [] s t ∧ PortAs s t) ∧
    (s.dptr.toNat ≥ s.xdataSize → exec .movxADptr s = .fault .memoryFault) ∧
    (s.dptr.toNat < s.xdataSize → Runs .movxADptr [0xE0] s fun t =>
      Goes 1 s t ∧ AIs (s.xdata.read s.dptr.toNat) t ∧ Frame [.a] [0] [] [] s t ∧ PortAs s t)

/-- MOVX from A: that XDATA byte and no other; MemoryFault at or beyond XDATA_SIZE
(`42_data_transfer.md` R221, R222). -/
def Obligations.MovxWritesXdata : Prop :=
  ∀ (s : State) (i : PtrIndex), s.Legal →
    ((s.ptr i).toNat ≥ s.xdataSize → exec (.movxIndA i) s = .fault .memoryFault) ∧
    ((s.ptr i).toNat < s.xdataSize → Runs (.movxIndA i) [0b1111001#7 ++ i] s fun t =>
      Goes 1 s t ∧ t.xdata.read (s.ptr i).toNat = s.a ∧ Frame [] [] [] [(s.ptr i).toNat] s t ∧ PortAs s t) ∧
    (s.dptr.toNat ≥ s.xdataSize → exec .movxDptrA s = .fault .memoryFault) ∧
    (s.dptr.toNat < s.xdataSize → Runs .movxDptrA [0xF0] s fun t =>
      Goes 1 s t ∧ t.xdata.read s.dptr.toNat = s.a ∧ Frame [] [] [] [s.dptr.toNat] s t ∧ PortAs s t)

/-- PUSH and POP of a direct address: the bound first; PUSH reads before SP moves; POP moves SP before the
routed write (`42_data_transfer.md` R223, R224). -/
def Obligations.PushAndPopResults : Prop :=
  ∀ (s : State) (d : Byte), s.Legal →
    (s.sp = 0xFF → exec (.push d) s = .fault .stackOverflow) ∧
    (s.sp ≠ 0xFF → Runs (.push d) [0xC0, d] s fun t =>
      Goes 2 s t ∧ t.sp = s.sp + 1 ∧ t.iramRead (s.sp + 1) = (s.dRead d).1 ∧
      Frame [.sp] [] [s.sp + 1] [] s t ∧ PortAs (s.dRead d).2 t) ∧
    (s.sp = 0x00 → exec (.pop d) s = .fault .stackUnderflow) ∧
    (s.sp ≠ 0x00 → Runs (.pop d) [0xD0, d] s fun t =>
      Goes 2 s t ∧ t.sp = s.sp - 1 ∧ DirectWritten s d (s.iramRead s.sp) t ∧
      Frame [.sp] [] (cellsOf s d) [] s t)

/-- XCH exchanges A with a register, direct or indirect byte, XCHD the low digits with an indirect byte
(`42_data_transfer.md` R225 to R228). -/
def Obligations.ExchangeResults : Prop :=
  ∀ s : State, s.Legal →
    (∀ n, Runs (.xchARn n) [0b11001#5 ++ n] s fun t => Goes 1 s t ∧ AIs (s.regRead n) t ∧
      t.regRead n = s.a ∧ Frame [.a] [0] [s.regAddr n] [] s t ∧ PortAs s t) ∧
    (∀ d, Runs (.xchADirect d) [0xC5, d] s fun t => Goes 2 s t ∧ AIs (s.dRead d).1 t ∧
      DirectWritten (s.dRead d).2 d s.a t ∧ Frame [.a] [0] (cellsOf s d) [] s t) ∧
    (∀ i, Runs (.xchAInd i) [0b1100011#7 ++ i] s fun t => Goes 1 s t ∧ AIs (s.indRead i) t ∧
      t.iramRead (s.ptr i) = s.a ∧ Frame [.a] [0] [s.ptr i] [] s t ∧ PortAs s t) ∧
    (∀ i, Runs (.xchdAInd i) [0b1101011#7 ++ i] s fun t => Goes 1 s t ∧
      AIs (s.a.extractLsb' 4 4 ++ (s.indRead i).extractLsb' 0 4) t ∧
      t.iramRead (s.ptr i) = (s.indRead i).extractLsb' 4 4 ++ s.a.extractLsb' 0 4 ∧
      Frame [.a] [0] [s.ptr i] [] s t ∧ PortAs s t)

/-! ## Boolean -/

/-- CLR C, SETB C, CPL C: CY and nothing else (`43_boolean.md` R241, R243, R245). -/
def Obligations.CarryResults : Prop :=
  ∀ s : State,
    (Runs .clrC [0xC3] s fun t => Goes 1 s t ∧ t.cy = false ∧ Frame [] [7] [] [] s t ∧ PortAs s t) ∧
    (Runs .setbC [0xD3] s fun t => Goes 1 s t ∧ t.cy = true ∧ Frame [] [7] [] [] s t ∧ PortAs s t) ∧
    (Runs .cplC [0xB3] s fun t => Goes 1 s t ∧ t.cy = !s.cy ∧ Frame [] [7] [] [] s t ∧ PortAs s t)

/-- CLR bit, SETB bit, CPL bit, MOV bit,C: one routed read and one routed write of the whole byte with the
one bit replaced, no flag (`43_boolean.md` R242, R244, R246, R252). -/
def Obligations.BitWriteResults : Prop :=
  ∀ (s : State) (b : Byte), s.Legal →
    (Runs (.clrBit b) [0xC2, b] s
      (DirectModified 2 (bitByte b) (byteWithBit (s.dRead (bitByte b)).1 b false) s)) ∧
    (Runs (.setbBit b) [0xD2, b] s
      (DirectModified 2 (bitByte b) (byteWithBit (s.dRead (bitByte b)).1 b true) s)) ∧
    (Runs (.cplBit b) [0xB2, b] s
      (DirectModified 2 (bitByte b)
        (byteWithBit (s.dRead (bitByte b)).1 b (!(s.dRead (bitByte b)).1.getLsbD (b.toNat % 8))) s)) ∧
    (Runs (.movBitC b) [0x92, b] s
      (DirectModified 2 (bitByte b) (byteWithBit (s.dRead (bitByte b)).1 b s.cy) s))

/-- ANL C, ORL C (with the bit or its complement) and MOV C,bit: CY and nothing else, the bit only read
(`43_boolean.md` R247 to R251). -/
def Obligations.CarryAndBitResults : Prop :=
  ∀ (s : State) (b : Byte) (v : Bool), v = (s.dRead (bitByte b)).1.getLsbD (b.toNat % 8) →
    (Runs (.anlCBit b) [0x82, b] s fun t => Goes 2 s t ∧ t.cy = (s.cy && v) ∧ Frame [] [7] [] [] s t ∧
      PortAs (s.dRead (bitByte b)).2 t) ∧
    (Runs (.anlCNotBit b) [0xB0, b] s fun t => Goes 2 s t ∧ t.cy = (s.cy && !v) ∧ Frame [] [7] [] [] s t ∧
      PortAs (s.dRead (bitByte b)).2 t) ∧
    (Runs (.orlCBit b) [0x72, b] s fun t => Goes 2 s t ∧ t.cy = (s.cy || v) ∧ Frame [] [7] [] [] s t ∧
      PortAs (s.dRead (bitByte b)).2 t) ∧
    (Runs (.orlCNotBit b) [0xA0, b] s fun t => Goes 2 s t ∧ t.cy = (s.cy || !v) ∧ Frame [] [7] [] [] s t ∧
      PortAs (s.dRead (bitByte b)).2 t) ∧
    (Runs (.movCBit b) [0xA2, b] s fun t => Goes 2 s t ∧ t.cy = v ∧ Frame [] [7] [] [] s t ∧
      PortAs (s.dRead (bitByte b)).2 t)

/-- JC, JNC, JB, JNB: PC and nothing else (`43_boolean.md` R253 to R256). -/
def Obligations.CarryAndBitJumps : Prop :=
  ∀ (s : State) (b e : Byte) (v : Bool), v = (s.dRead (bitByte b)).1.getLsbD (b.toNat % 8) →
    (Runs (.jc e) [0x40, e] s fun t => GoesRel s.cy 2 e s t ∧ Frame [] [] [] [] s t ∧ PortAs s t) ∧
    (Runs (.jnc e) [0x50, e] s fun t => GoesRel (!s.cy) 2 e s t ∧ Frame [] [] [] [] s t ∧ PortAs s t) ∧
    (Runs (.jb b e) [0x20, b, e] s fun t => GoesRel v 3 e s t ∧ Frame [] [] [] [] s t ∧
      PortAs (s.dRead (bitByte b)).2 t) ∧
    (Runs (.jnb b e) [0x30, b, e] s fun t => GoesRel (!v) 3 e s t ∧ Frame [] [] [] [] s t ∧
      PortAs (s.dRead (bitByte b)).2 t)

/-- JBC: if the bit is 1, it is cleared by one routed write and the jump taken; if it is 0, no write at all
(`43_boolean.md` R257). -/
def Obligations.TestAndClearJump : Prop :=
  ∀ (s : State) (b e : Byte), s.Legal → Runs (.jbc b e) [0x10, b, e] s fun t =>
    ((s.dRead (bitByte b)).1.getLsbD (b.toNat % 8) = true →
      GoesRel true 3 e s t ∧
      DirectWritten (s.dRead (bitByte b)).2 (bitByte b) (byteWithBit (s.dRead (bitByte b)).1 b false) t ∧
      Frame [] [] (cellsOf s (bitByte b)) [] s t) ∧
    ((s.dRead (bitByte b)).1.getLsbD (b.toNat % 8) = false →
      Goes 3 s t ∧ PortAs (s.dRead (bitByte b)).2 t ∧ Frame [] [] [] [] s t)

/-! ## Control transfer -/

/-- ACALL and LCALL: StackOverflow at SP >= 0xFE; else the return address is pushed, low byte at SP+1, high
byte at SP+2, and PC is the target (`44_control_transfer.md` R271, R272). -/
def Obligations.CallResults : Prop :=
  ∀ s : State, s.Legal →
    (s.sp.toNat ≥ 0xFE → (∀ a, exec (.acall a) s = .fault .stackOverflow) ∧
      ∀ a, exec (.lcall a) s = .fault .stackOverflow) ∧
    (s.sp.toNat < 0xFE →
      (∀ (hi : BitVec 3) (lo : Byte), Runs (.acall (hi ++ lo)) [hi ++ 0b10001#5, lo] s fun t =>
        t.pc.toNat = (s.pc.toNat + 2) % 65536 / 2048 * 2048 + hi.toNat * 256 + lo.toNat ∧
        t.sp.toNat = s.sp.toNat + 2 ∧
        (t.iramRead (s.sp + 2)).toNat * 256 + (t.iramRead (s.sp + 1)).toNat = (s.pc.toNat + 2) % 65536 ∧
        Frame [.sp] [] [s.sp + 1, s.sp + 2] [] s t ∧ PortAs s t) ∧
      (∀ hi lo : Byte, Runs (.lcall (hi ++ lo)) [0x12, hi, lo] s fun t =>
        t.pc.toNat = hi.toNat * 256 + lo.toNat ∧ t.sp.toNat = s.sp.toNat + 2 ∧
        (t.iramRead (s.sp + 2)).toNat * 256 + (t.iramRead (s.sp + 1)).toNat = (s.pc.toNat + 3) % 65536 ∧
        Frame [.sp] [] [s.sp + 1, s.sp + 2] [] s t ∧ PortAs s t))

/-- RET and RETI: StackUnderflow at SP <= 1; else PC is the word on the stack, whatever put it there
(`44_control_transfer.md` R273, R274). -/
def Obligations.ReturnResults : Prop :=
  ∀ s : State,
    (s.sp.toNat ≤ 0x01 → exec .ret s = .fault .stackUnderflow ∧ exec .reti s = .fault .stackUnderflow) ∧
    (s.sp.toNat > 0x01 →
      (Runs .ret [0x22] s fun t =>
        t.pc.toNat = (s.iramRead s.sp).toNat * 256 + (s.iramRead (s.sp - 1)).toNat ∧
        t.sp.toNat = s.sp.toNat - 2 ∧ Frame [.sp] [] [] [] s t ∧ PortAs s t) ∧
      (Runs .reti [0x32] s fun t =>
        t.pc.toNat = (s.iramRead s.sp).toNat * 256 + (s.iramRead (s.sp - 1)).toNat ∧
        t.sp.toNat = s.sp.toNat - 2 ∧ Frame [.sp] [] [] [] s t ∧ PortAs s t))

/-- A call and then a return come back to the instruction after the call with SP restored and every register
and flag as before; only the two stack bytes differ (S7; `44_control_transfer.md` R271 to R274). -/
def Obligations.CallThenReturnComesBack : Prop :=
  ∀ (s : State) (call back : Instr), s.Legal → s.sp.toNat < 0xFE →
    ((∃ a, call = .acall a) ∨ ∃ a, call = .lcall a) → (back = .ret ∨ back = .reti) →
    ∃ t u, exec call s = .next t ∧ exec back t = .next u ∧ Goes call.length s u ∧
      Frame [] [] [s.sp + 1, s.sp + 2] [] s u ∧ PortAs s u

/-- AJMP, LJMP, SJMP, JMP @A+DPTR and NOP: PC and nothing else (`44_control_transfer.md` R275 to R278,
R287). -/
def Obligations.JumpAndNopResults : Prop :=
  ∀ s : State,
    (∀ (hi : BitVec 3) (lo : Byte), Runs (.ajmp (hi ++ lo)) [hi ++ 0b00001#5, lo] s fun t =>
      t.pc.toNat = (s.pc.toNat + 2) % 65536 / 2048 * 2048 + hi.toNat * 256 + lo.toNat ∧
      Frame [] [] [] [] s t ∧ PortAs s t) ∧
    (∀ hi lo : Byte, Runs (.ljmp (hi ++ lo)) [0x02, hi, lo] s fun t =>
      t.pc.toNat = hi.toNat * 256 + lo.toNat ∧ Frame [] [] [] [] s t ∧ PortAs s t) ∧
    (∀ e, Runs (.sjmp e) [0x80, e] s fun t => GoesRel true 2 e s t ∧ Frame [] [] [] [] s t ∧ PortAs s t) ∧
    (Runs .jmpADptr [0x73] s fun t => t.pc.toNat = (s.a.toNat + s.dptr.toNat) % 65536 ∧
      Frame [] [] [] [] s t ∧ PortAs s t) ∧
    (Runs .nop [0x00] s fun t => Goes 1 s t ∧ Frame [] [] [] [] s t ∧ PortAs s t)

/-- `SJMP $`, the bytes 80 FE at PC, is a fixed point of the step (`44_control_transfer.md` R277,
`70_reset_and_hazards.md` R356). -/
def Obligations.SelfJumpIsAFixedPoint : Prop := ∀ s : State, s.CodeAtPc [0x80, 0xFE] → step s = .next s

/-- JZ and JNZ test A at the time of the instruction (`44_control_transfer.md` R279, R280). -/
def Obligations.AccumulatorJumps : Prop :=
  ∀ (s : State) (e : Byte),
    (Runs (.jz e) [0x60, e] s fun t =>
      GoesRel (decide (s.a.toNat = 0)) 2 e s t ∧ Frame [] [] [] [] s t ∧ PortAs s t) ∧
    (Runs (.jnz e) [0x70, e] s fun t =>
      GoesRel (decide (s.a.toNat ≠ 0)) 2 e s t ∧ Frame [] [] [] [] s t ∧ PortAs s t)

/-- CJNE, all four forms: CY is the unsigned comparison, whether or not the jump is taken; neither operand
changes (`44_control_transfer.md` R281 to R284). -/
def Obligations.CompareJumps : Prop :=
  ∀ (s : State) (e : Byte),
    (∀ d, Runs (.cjneADirect d e) [0xB5, d, e] s fun t =>
      GoesRel (decide (s.a.toNat ≠ (s.dRead d).1.toNat)) 3 e s t ∧
      t.cy = decide (s.a.toNat < (s.dRead d).1.toNat) ∧ Frame [] [7] [] [] s t ∧ PortAs (s.dRead d).2 t) ∧
    (∀ k, Runs (.cjneAImm k e) [0xB4, k, e] s fun t =>
      GoesRel (decide (s.a.toNat ≠ k.toNat)) 3 e s t ∧ t.cy = decide (s.a.toNat < k.toNat) ∧
      Frame [] [7] [] [] s t ∧ PortAs s t) ∧
    (∀ n k, Runs (.cjneRnImm n k e) [0b10111#5 ++ n, k, e] s fun t =>
      GoesRel (decide ((s.regRead n).toNat ≠ k.toNat)) 3 e s t ∧
      t.cy = decide ((s.regRead n).toNat < k.toNat) ∧ Frame [] [7] [] [] s t ∧ PortAs s t) ∧
    (∀ i k, Runs (.cjneIndImm i k e) [0b1011011#7 ++ i, k, e] s fun t =>
      GoesRel (decide ((s.indRead i).toNat ≠ k.toNat)) 3 e s t ∧
      t.cy = decide ((s.indRead i).toNat < k.toNat) ∧ Frame [] [7] [] [] s t ∧ PortAs s t)

/-- DJNZ: the byte minus one modulo 256 is stored, and the jump taken when the value stored is not zero; no
flag (`44_control_transfer.md` R285, R286). -/
def Obligations.DecrementJumps : Prop :=
  ∀ (s : State) (e : Byte), s.Legal →
    (∀ n, Runs (.djnzRn n e) [0b11011#5 ++ n, e] s fun t =>
      (t.regRead n).toNat = ((s.regRead n).toNat + 255) % 256 ∧
      GoesRel (decide ((s.regRead n).toNat ≠ 1)) 2 e s t ∧ Frame [] [] [s.regAddr n] [] s t ∧ PortAs s t) ∧
    (∀ d, Runs (.djnzDirect d e) [0xD5, d, e] s fun t =>
      DirectWritten (s.dRead d).2 d ((s.dRead d).1 - 1) t ∧
      GoesRel (decide ((s.dRead d).1.toNat ≠ 1)) 3 e s t ∧ Frame [] [] (cellsOf s d) [] s t)
end

