-- ==== Sys2Proof/Laws/State.lean ====
section
/-! SUPPORT. One lemma per field per update, so that no proof unfolds a record update. The updates that are
another name of a primitive one are rewritten to it. -/
namespace Sys2Proof.Machine

/-! ## Updates that are another name of a primitive one -/

@[simp] theorem State.regWrite_eq (s : State) (n : RegIndex) (v : Byte) :
    s.regWrite n v = s.iramWrite (s.regAddr n) v := rfl

@[simp] theorem State.indWrite_eq (s : State) (i : PtrIndex) (v : Byte) :
    s.indWrite i v = s.iramWrite (s.ptr i) v := rfl

@[simp] theorem State.setCy_eq (s : State) (v : Bool) : s.setCy v = s.setPswBit 7 v := rfl
@[simp] theorem State.setAc_eq (s : State) (v : Bool) : s.setAc v = s.setPswBit 6 v := rfl
@[simp] theorem State.setOv_eq (s : State) (v : Bool) : s.setOv v = s.setPswBit 2 v := rfl

@[simp] theorem State.advance_eq (s : State) (len : Nat) : s.advance len = s.jump (s.pcNext len) := rfl

@[simp] theorem State.branch_eq (s : State) (taken : Bool) (w : Word) (len : Nat) :
    s.branch taken w len = s.jump (if taken then w else s.pcNext len) := by
  unfold State.branch; split <;> rfl

@[simp] theorem State.bitRead_snd (s : State) (b : Byte) : (s.bitRead b).2 = (s.dRead (bitByte b)).2 := rfl

/-! ## `iramWrite`: IRAM alone -/

@[simp] theorem State.iramWrite_pc (s : State) (d v : Byte) : (s.iramWrite d v).pc = s.pc := rfl
@[simp] theorem State.iramWrite_a (s : State) (d v : Byte) : (s.iramWrite d v).a = s.a := rfl
@[simp] theorem State.iramWrite_b (s : State) (d v : Byte) : (s.iramWrite d v).b = s.b := rfl
@[simp] theorem State.iramWrite_psw (s : State) (d v : Byte) : (s.iramWrite d v).psw = s.psw := rfl
@[simp] theorem State.iramWrite_sp (s : State) (d v : Byte) : (s.iramWrite d v).sp = s.sp := rfl
@[simp] theorem State.iramWrite_dptr (s : State) (d v : Byte) : (s.iramWrite d v).dptr = s.dptr := rfl
@[simp] theorem State.iramWrite_iram (s : State) (d v : Byte) :
    (s.iramWrite d v).iram = s.iram.write d.toNat v := rfl
@[simp] theorem State.iramWrite_code (s : State) (d v : Byte) : (s.iramWrite d v).code = s.code := rfl
@[simp] theorem State.iramWrite_codeSize (s : State) (d v : Byte) : (s.iramWrite d v).codeSize = s.codeSize := rfl
@[simp] theorem State.iramWrite_xdata (s : State) (d v : Byte) : (s.iramWrite d v).xdata = s.xdata := rfl
@[simp] theorem State.iramWrite_xdataSize (s : State) (d v : Byte) : (s.iramWrite d v).xdataSize = s.xdataSize := rfl
@[simp] theorem State.iramWrite_inReg (s : State) (d v : Byte) : (s.iramWrite d v).inReg = s.inReg := rfl
@[simp] theorem State.iramWrite_outReg (s : State) (d v : Byte) : (s.iramWrite d v).outReg = s.outReg := rfl
@[simp] theorem State.iramWrite_inputs (s : State) (d v : Byte) : (s.iramWrite d v).inputs = s.inputs := rfl
@[simp] theorem State.iramWrite_draws (s : State) (d v : Byte) : (s.iramWrite d v).draws = s.draws := rfl
@[simp] theorem State.iramWrite_trace (s : State) (d v : Byte) : (s.iramWrite d v).trace = s.trace := rfl

/-! ## `jump`: PC alone -/

@[simp] theorem State.jump_pc (s : State) (w : Word) :
    (s.jump w).pc = w := rfl
@[simp] theorem State.jump_a (s : State) (w : Word) : (s.jump w).a = s.a := rfl
@[simp] theorem State.jump_b (s : State) (w : Word) : (s.jump w).b = s.b := rfl
@[simp] theorem State.jump_psw (s : State) (w : Word) : (s.jump w).psw = s.psw := rfl
@[simp] theorem State.jump_sp (s : State) (w : Word) : (s.jump w).sp = s.sp := rfl
@[simp] theorem State.jump_dptr (s : State) (w : Word) : (s.jump w).dptr = s.dptr := rfl
@[simp] theorem State.jump_iram (s : State) (w : Word) : (s.jump w).iram = s.iram := rfl
@[simp] theorem State.jump_code (s : State) (w : Word) : (s.jump w).code = s.code := rfl
@[simp] theorem State.jump_codeSize (s : State) (w : Word) : (s.jump w).codeSize = s.codeSize := rfl
@[simp] theorem State.jump_xdata (s : State) (w : Word) : (s.jump w).xdata = s.xdata := rfl
@[simp] theorem State.jump_xdataSize (s : State) (w : Word) : (s.jump w).xdataSize = s.xdataSize := rfl
@[simp] theorem State.jump_inReg (s : State) (w : Word) : (s.jump w).inReg = s.inReg := rfl
@[simp] theorem State.jump_outReg (s : State) (w : Word) : (s.jump w).outReg = s.outReg := rfl
@[simp] theorem State.jump_inputs (s : State) (w : Word) : (s.jump w).inputs = s.inputs := rfl
@[simp] theorem State.jump_draws (s : State) (w : Word) : (s.jump w).draws = s.draws := rfl
@[simp] theorem State.jump_trace (s : State) (w : Word) : (s.jump w).trace = s.trace := rfl

/-! ## `setPswBit`: PSW alone -/

@[simp] theorem State.setPswBit_pc (s : State) (k : Nat) (v : Bool) : (s.setPswBit k v).pc = s.pc := rfl
@[simp] theorem State.setPswBit_a (s : State) (k : Nat) (v : Bool) : (s.setPswBit k v).a = s.a := rfl
@[simp] theorem State.setPswBit_b (s : State) (k : Nat) (v : Bool) : (s.setPswBit k v).b = s.b := rfl
@[simp] theorem State.setPswBit_psw (s : State) (k : Nat) (v : Bool) :
    (s.setPswBit k v).psw = setBit s.psw k v := rfl
@[simp] theorem State.setPswBit_sp (s : State) (k : Nat) (v : Bool) : (s.setPswBit k v).sp = s.sp := rfl
@[simp] theorem State.setPswBit_dptr (s : State) (k : Nat) (v : Bool) : (s.setPswBit k v).dptr = s.dptr := rfl
@[simp] theorem State.setPswBit_iram (s : State) (k : Nat) (v : Bool) : (s.setPswBit k v).iram = s.iram := rfl
@[simp] theorem State.setPswBit_code (s : State) (k : Nat) (v : Bool) : (s.setPswBit k v).code = s.code := rfl
@[simp] theorem State.setPswBit_codeSize (s : State) (k : Nat) (v : Bool) : (s.setPswBit k v).codeSize = s.codeSize := rfl
@[simp] theorem State.setPswBit_xdata (s : State) (k : Nat) (v : Bool) : (s.setPswBit k v).xdata = s.xdata := rfl
@[simp] theorem State.setPswBit_xdataSize (s : State) (k : Nat) (v : Bool) : (s.setPswBit k v).xdataSize = s.xdataSize := rfl
@[simp] theorem State.setPswBit_inReg (s : State) (k : Nat) (v : Bool) : (s.setPswBit k v).inReg = s.inReg := rfl
@[simp] theorem State.setPswBit_outReg (s : State) (k : Nat) (v : Bool) : (s.setPswBit k v).outReg = s.outReg := rfl
@[simp] theorem State.setPswBit_inputs (s : State) (k : Nat) (v : Bool) : (s.setPswBit k v).inputs = s.inputs := rfl
@[simp] theorem State.setPswBit_draws (s : State) (k : Nat) (v : Bool) : (s.setPswBit k v).draws = s.draws := rfl
@[simp] theorem State.setPswBit_trace (s : State) (k : Nat) (v : Bool) : (s.setPswBit k v).trace = s.trace := rfl

/-! ## `writeA`: A and PSW -/

@[simp] theorem State.writeA_pc (s : State) (v : Byte) : (s.writeA v).pc = s.pc := rfl
@[simp] theorem State.writeA_a (s : State) (v : Byte) :
    (s.writeA v).a = v := rfl
@[simp] theorem State.writeA_b (s : State) (v : Byte) : (s.writeA v).b = s.b := rfl
@[simp] theorem State.writeA_psw (s : State) (v : Byte) :
    (s.writeA v).psw = setBit s.psw 0 (parity v) := rfl
@[simp] theorem State.writeA_sp (s : State) (v : Byte) : (s.writeA v).sp = s.sp := rfl
@[simp] theorem State.writeA_dptr (s : State) (v : Byte) : (s.writeA v).dptr = s.dptr := rfl
@[simp] theorem State.writeA_iram (s : State) (v : Byte) : (s.writeA v).iram = s.iram := rfl
@[simp] theorem State.writeA_code (s : State) (v : Byte) : (s.writeA v).code = s.code := rfl
@[simp] theorem State.writeA_codeSize (s : State) (v : Byte) : (s.writeA v).codeSize = s.codeSize := rfl
@[simp] theorem State.writeA_xdata (s : State) (v : Byte) : (s.writeA v).xdata = s.xdata := rfl
@[simp] theorem State.writeA_xdataSize (s : State) (v : Byte) : (s.writeA v).xdataSize = s.xdataSize := rfl
@[simp] theorem State.writeA_inReg (s : State) (v : Byte) : (s.writeA v).inReg = s.inReg := rfl
@[simp] theorem State.writeA_outReg (s : State) (v : Byte) : (s.writeA v).outReg = s.outReg := rfl
@[simp] theorem State.writeA_inputs (s : State) (v : Byte) : (s.writeA v).inputs = s.inputs := rfl
@[simp] theorem State.writeA_draws (s : State) (v : Byte) : (s.writeA v).draws = s.draws := rfl
@[simp] theorem State.writeA_trace (s : State) (v : Byte) : (s.writeA v).trace = s.trace := rfl

/-! ## `setB`, `setSp`, `setDptr`, `setXdata`: that register, or XDATA, alone -/

@[simp] theorem State.setB_pc (s : State) (v : Byte) : (s.setB v).pc = s.pc := rfl
@[simp] theorem State.setB_a (s : State) (v : Byte) : (s.setB v).a = s.a := rfl
@[simp] theorem State.setB_b (s : State) (v : Byte) :
    (s.setB v).b = v := rfl
@[simp] theorem State.setB_psw (s : State) (v : Byte) : (s.setB v).psw = s.psw := rfl
@[simp] theorem State.setB_sp (s : State) (v : Byte) : (s.setB v).sp = s.sp := rfl
@[simp] theorem State.setB_dptr (s : State) (v : Byte) : (s.setB v).dptr = s.dptr := rfl
@[simp] theorem State.setB_iram (s : State) (v : Byte) : (s.setB v).iram = s.iram := rfl
@[simp] theorem State.setB_code (s : State) (v : Byte) : (s.setB v).code = s.code := rfl
@[simp] theorem State.setB_codeSize (s : State) (v : Byte) : (s.setB v).codeSize = s.codeSize := rfl
@[simp] theorem State.setB_xdata (s : State) (v : Byte) : (s.setB v).xdata = s.xdata := rfl
@[simp] theorem State.setB_xdataSize (s : State) (v : Byte) : (s.setB v).xdataSize = s.xdataSize := rfl
@[simp] theorem State.setB_inReg (s : State) (v : Byte) : (s.setB v).inReg = s.inReg := rfl
@[simp] theorem State.setB_outReg (s : State) (v : Byte) : (s.setB v).outReg = s.outReg := rfl
@[simp] theorem State.setB_inputs (s : State) (v : Byte) : (s.setB v).inputs = s.inputs := rfl
@[simp] theorem State.setB_draws (s : State) (v : Byte) : (s.setB v).draws = s.draws := rfl
@[simp] theorem State.setB_trace (s : State) (v : Byte) : (s.setB v).trace = s.trace := rfl

@[simp] theorem State.setSp_pc (s : State) (v : Byte) : (s.setSp v).pc = s.pc := rfl
@[simp] theorem State.setSp_a (s : State) (v : Byte) : (s.setSp v).a = s.a := rfl
@[simp] theorem State.setSp_b (s : State) (v : Byte) : (s.setSp v).b = s.b := rfl
@[simp] theorem State.setSp_psw (s : State) (v : Byte) : (s.setSp v).psw = s.psw := rfl
@[simp] theorem State.setSp_sp (s : State) (v : Byte) :
    (s.setSp v).sp = v := rfl
@[simp] theorem State.setSp_dptr (s : State) (v : Byte) : (s.setSp v).dptr = s.dptr := rfl
@[simp] theorem State.setSp_iram (s : State) (v : Byte) : (s.setSp v).iram = s.iram := rfl
@[simp] theorem State.setSp_code (s : State) (v : Byte) : (s.setSp v).code = s.code := rfl
@[simp] theorem State.setSp_codeSize (s : State) (v : Byte) : (s.setSp v).codeSize = s.codeSize := rfl
@[simp] theorem State.setSp_xdata (s : State) (v : Byte) : (s.setSp v).xdata = s.xdata := rfl
@[simp] theorem State.setSp_xdataSize (s : State) (v : Byte) : (s.setSp v).xdataSize = s.xdataSize := rfl
@[simp] theorem State.setSp_inReg (s : State) (v : Byte) : (s.setSp v).inReg = s.inReg := rfl
@[simp] theorem State.setSp_outReg (s : State) (v : Byte) : (s.setSp v).outReg = s.outReg := rfl
@[simp] theorem State.setSp_inputs (s : State) (v : Byte) : (s.setSp v).inputs = s.inputs := rfl
@[simp] theorem State.setSp_draws (s : State) (v : Byte) : (s.setSp v).draws = s.draws := rfl
@[simp] theorem State.setSp_trace (s : State) (v : Byte) : (s.setSp v).trace = s.trace := rfl

@[simp] theorem State.setDptr_pc (s : State) (v : Word) : (s.setDptr v).pc = s.pc := rfl
@[simp] theorem State.setDptr_a (s : State) (v : Word) : (s.setDptr v).a = s.a := rfl
@[simp] theorem State.setDptr_b (s : State) (v : Word) : (s.setDptr v).b = s.b := rfl
@[simp] theorem State.setDptr_psw (s : State) (v : Word) : (s.setDptr v).psw = s.psw := rfl
@[simp] theorem State.setDptr_sp (s : State) (v : Word) : (s.setDptr v).sp = s.sp := rfl
@[simp] theorem State.setDptr_dptr (s : State) (v : Word) :
    (s.setDptr v).dptr = v := rfl
@[simp] theorem State.setDptr_iram (s : State) (v : Word) : (s.setDptr v).iram = s.iram := rfl
@[simp] theorem State.setDptr_code (s : State) (v : Word) : (s.setDptr v).code = s.code := rfl
@[simp] theorem State.setDptr_codeSize (s : State) (v : Word) : (s.setDptr v).codeSize = s.codeSize := rfl
@[simp] theorem State.setDptr_xdata (s : State) (v : Word) : (s.setDptr v).xdata = s.xdata := rfl
@[simp] theorem State.setDptr_xdataSize (s : State) (v : Word) : (s.setDptr v).xdataSize = s.xdataSize := rfl
@[simp] theorem State.setDptr_inReg (s : State) (v : Word) : (s.setDptr v).inReg = s.inReg := rfl
@[simp] theorem State.setDptr_outReg (s : State) (v : Word) : (s.setDptr v).outReg = s.outReg := rfl
@[simp] theorem State.setDptr_inputs (s : State) (v : Word) : (s.setDptr v).inputs = s.inputs := rfl
@[simp] theorem State.setDptr_draws (s : State) (v : Word) : (s.setDptr v).draws = s.draws := rfl
@[simp] theorem State.setDptr_trace (s : State) (v : Word) : (s.setDptr v).trace = s.trace := rfl

@[simp] theorem State.setXdata_pc (s : State) (n : Nat) (v : Byte) : (s.setXdata n v).pc = s.pc := rfl
@[simp] theorem State.setXdata_a (s : State) (n : Nat) (v : Byte) : (s.setXdata n v).a = s.a := rfl
@[simp] theorem State.setXdata_b (s : State) (n : Nat) (v : Byte) : (s.setXdata n v).b = s.b := rfl
@[simp] theorem State.setXdata_psw (s : State) (n : Nat) (v : Byte) : (s.setXdata n v).psw = s.psw := rfl
@[simp] theorem State.setXdata_sp (s : State) (n : Nat) (v : Byte) : (s.setXdata n v).sp = s.sp := rfl
@[simp] theorem State.setXdata_dptr (s : State) (n : Nat) (v : Byte) : (s.setXdata n v).dptr = s.dptr := rfl
@[simp] theorem State.setXdata_iram (s : State) (n : Nat) (v : Byte) : (s.setXdata n v).iram = s.iram := rfl
@[simp] theorem State.setXdata_code (s : State) (n : Nat) (v : Byte) : (s.setXdata n v).code = s.code := rfl
@[simp] theorem State.setXdata_codeSize (s : State) (n : Nat) (v : Byte) : (s.setXdata n v).codeSize = s.codeSize := rfl
@[simp] theorem State.setXdata_xdata (s : State) (n : Nat) (v : Byte) :
    (s.setXdata n v).xdata = s.xdata.write n v := rfl
@[simp] theorem State.setXdata_xdataSize (s : State) (n : Nat) (v : Byte) : (s.setXdata n v).xdataSize = s.xdataSize := rfl
@[simp] theorem State.setXdata_inReg (s : State) (n : Nat) (v : Byte) : (s.setXdata n v).inReg = s.inReg := rfl
@[simp] theorem State.setXdata_outReg (s : State) (n : Nat) (v : Byte) : (s.setXdata n v).outReg = s.outReg := rfl
@[simp] theorem State.setXdata_inputs (s : State) (n : Nat) (v : Byte) : (s.setXdata n v).inputs = s.inputs := rfl
@[simp] theorem State.setXdata_draws (s : State) (n : Nat) (v : Byte) : (s.setXdata n v).draws = s.draws := rfl
@[simp] theorem State.setXdata_trace (s : State) (n : Nat) (v : Byte) : (s.setXdata n v).trace = s.trace := rfl

/-! ## `portIn` and `portOut`: the port alone -/

@[simp] theorem State.portIn_pc (s : State) (d : Byte) : ((s.portIn d).2).pc = s.pc := rfl
@[simp] theorem State.portIn_a (s : State) (d : Byte) : ((s.portIn d).2).a = s.a := rfl
@[simp] theorem State.portIn_b (s : State) (d : Byte) : ((s.portIn d).2).b = s.b := rfl
@[simp] theorem State.portIn_psw (s : State) (d : Byte) : ((s.portIn d).2).psw = s.psw := rfl
@[simp] theorem State.portIn_sp (s : State) (d : Byte) : ((s.portIn d).2).sp = s.sp := rfl
@[simp] theorem State.portIn_dptr (s : State) (d : Byte) : ((s.portIn d).2).dptr = s.dptr := rfl
@[simp] theorem State.portIn_iram (s : State) (d : Byte) : ((s.portIn d).2).iram = s.iram := rfl
@[simp] theorem State.portIn_code (s : State) (d : Byte) : ((s.portIn d).2).code = s.code := rfl
@[simp] theorem State.portIn_codeSize (s : State) (d : Byte) : ((s.portIn d).2).codeSize = s.codeSize := rfl
@[simp] theorem State.portIn_xdata (s : State) (d : Byte) : ((s.portIn d).2).xdata = s.xdata := rfl
@[simp] theorem State.portIn_xdataSize (s : State) (d : Byte) : ((s.portIn d).2).xdataSize = s.xdataSize := rfl
@[simp] theorem State.portIn_inReg (s : State) (d : Byte) : ((s.portIn d).2).inReg = s.inReg := rfl
@[simp] theorem State.portIn_outReg (s : State) (d : Byte) : ((s.portIn d).2).outReg = s.outReg := rfl
@[simp] theorem State.portIn_inputs (s : State) (d : Byte) :
    ((s.portIn d).2).inputs = s.inputs.tail := rfl
@[simp] theorem State.portIn_draws (s : State) (d : Byte) :
    ((s.portIn d).2).draws = s.draws + 1 := rfl
@[simp] theorem State.portIn_trace (s : State) (d : Byte) :
    ((s.portIn d).2).trace = s.trace ++ [.input d (s.nextInput d)] := rfl

@[simp] theorem State.portOut_pc (s : State) (d v : Byte) : (s.portOut d v).pc = s.pc := rfl
@[simp] theorem State.portOut_a (s : State) (d v : Byte) : (s.portOut d v).a = s.a := rfl
@[simp] theorem State.portOut_b (s : State) (d v : Byte) : (s.portOut d v).b = s.b := rfl
@[simp] theorem State.portOut_psw (s : State) (d v : Byte) : (s.portOut d v).psw = s.psw := rfl
@[simp] theorem State.portOut_sp (s : State) (d v : Byte) : (s.portOut d v).sp = s.sp := rfl
@[simp] theorem State.portOut_dptr (s : State) (d v : Byte) : (s.portOut d v).dptr = s.dptr := rfl
@[simp] theorem State.portOut_iram (s : State) (d v : Byte) : (s.portOut d v).iram = s.iram := rfl
@[simp] theorem State.portOut_code (s : State) (d v : Byte) : (s.portOut d v).code = s.code := rfl
@[simp] theorem State.portOut_codeSize (s : State) (d v : Byte) : (s.portOut d v).codeSize = s.codeSize := rfl
@[simp] theorem State.portOut_xdata (s : State) (d v : Byte) : (s.portOut d v).xdata = s.xdata := rfl
@[simp] theorem State.portOut_xdataSize (s : State) (d v : Byte) : (s.portOut d v).xdataSize = s.xdataSize := rfl
@[simp] theorem State.portOut_inReg (s : State) (d v : Byte) : (s.portOut d v).inReg = s.inReg := rfl
@[simp] theorem State.portOut_outReg (s : State) (d v : Byte) : (s.portOut d v).outReg = s.outReg := rfl
@[simp] theorem State.portOut_inputs (s : State) (d v : Byte) : (s.portOut d v).inputs = s.inputs := rfl
@[simp] theorem State.portOut_draws (s : State) (d v : Byte) : (s.portOut d v).draws = s.draws := rfl
@[simp] theorem State.portOut_trace (s : State) (d v : Byte) :
    (s.portOut d v).trace = s.trace ++ [.output d v] := rfl

/-! ## `dRead` and `dWrite`: what no routed access changes -/

@[simp] theorem State.dRead_pc (s : State) (d : Byte) : ((s.dRead d).2).pc = s.pc := by unfold dRead; split <;> rfl
@[simp] theorem State.dRead_a (s : State) (d : Byte) : ((s.dRead d).2).a = s.a := by unfold dRead; split <;> rfl
@[simp] theorem State.dRead_b (s : State) (d : Byte) : ((s.dRead d).2).b = s.b := by unfold dRead; split <;> rfl
@[simp] theorem State.dRead_psw (s : State) (d : Byte) : ((s.dRead d).2).psw = s.psw := by unfold dRead; split <;> rfl
@[simp] theorem State.dRead_sp (s : State) (d : Byte) : ((s.dRead d).2).sp = s.sp := by unfold dRead; split <;> rfl
@[simp] theorem State.dRead_dptr (s : State) (d : Byte) : ((s.dRead d).2).dptr = s.dptr := by unfold dRead; split <;> rfl
@[simp] theorem State.dRead_iram (s : State) (d : Byte) : ((s.dRead d).2).iram = s.iram := by unfold dRead; split <;> rfl
@[simp] theorem State.dRead_code (s : State) (d : Byte) : ((s.dRead d).2).code = s.code := by unfold dRead; split <;> rfl
@[simp] theorem State.dRead_codeSize (s : State) (d : Byte) : ((s.dRead d).2).codeSize = s.codeSize := by unfold dRead; split <;> rfl
@[simp] theorem State.dRead_xdata (s : State) (d : Byte) : ((s.dRead d).2).xdata = s.xdata := by unfold dRead; split <;> rfl
@[simp] theorem State.dRead_xdataSize (s : State) (d : Byte) : ((s.dRead d).2).xdataSize = s.xdataSize := by unfold dRead; split <;> rfl
@[simp] theorem State.dRead_inReg (s : State) (d : Byte) : ((s.dRead d).2).inReg = s.inReg := by unfold dRead; split <;> rfl
@[simp] theorem State.dRead_outReg (s : State) (d : Byte) : ((s.dRead d).2).outReg = s.outReg := by unfold dRead; split <;> rfl

@[simp] theorem State.dWrite_pc (s : State) (d v : Byte) : (s.dWrite d v).pc = s.pc := by unfold dWrite; split <;> rfl
@[simp] theorem State.dWrite_a (s : State) (d v : Byte) : (s.dWrite d v).a = s.a := by unfold dWrite; split <;> rfl
@[simp] theorem State.dWrite_b (s : State) (d v : Byte) : (s.dWrite d v).b = s.b := by unfold dWrite; split <;> rfl
@[simp] theorem State.dWrite_psw (s : State) (d v : Byte) : (s.dWrite d v).psw = s.psw := by unfold dWrite; split <;> rfl
@[simp] theorem State.dWrite_sp (s : State) (d v : Byte) : (s.dWrite d v).sp = s.sp := by unfold dWrite; split <;> rfl
@[simp] theorem State.dWrite_dptr (s : State) (d v : Byte) : (s.dWrite d v).dptr = s.dptr := by unfold dWrite; split <;> rfl
@[simp] theorem State.dWrite_code (s : State) (d v : Byte) : (s.dWrite d v).code = s.code := by unfold dWrite; split <;> rfl
@[simp] theorem State.dWrite_codeSize (s : State) (d v : Byte) : (s.dWrite d v).codeSize = s.codeSize := by unfold dWrite; split <;> rfl
@[simp] theorem State.dWrite_xdata (s : State) (d v : Byte) : (s.dWrite d v).xdata = s.xdata := by unfold dWrite; split <;> rfl
@[simp] theorem State.dWrite_xdataSize (s : State) (d v : Byte) : (s.dWrite d v).xdataSize = s.xdataSize := by unfold dWrite; split <;> rfl
@[simp] theorem State.dWrite_inReg (s : State) (d v : Byte) : (s.dWrite d v).inReg = s.inReg := by unfold dWrite; split <;> rfl
@[simp] theorem State.dWrite_outReg (s : State) (d v : Byte) : (s.dWrite d v).outReg = s.outReg := by unfold dWrite; split <;> rfl
@[simp] theorem State.dWrite_inputs (s : State) (d v : Byte) : (s.dWrite d v).inputs = s.inputs := by unfold dWrite; split <;> rfl
@[simp] theorem State.dWrite_draws (s : State) (d v : Byte) : (s.dWrite d v).draws = s.draws := by unfold dWrite; split <;> rfl

/-! ## `addCore`, `subCore`, `daCore`, `rlcCore`, `rrcCore`: A and PSW -/

@[simp] theorem State.addCore_pc (s : State) (x : Byte) (c : Bool) : (s.addCore x c).pc = s.pc := rfl
@[simp] theorem State.addCore_b (s : State) (x : Byte) (c : Bool) : (s.addCore x c).b = s.b := rfl
@[simp] theorem State.addCore_sp (s : State) (x : Byte) (c : Bool) : (s.addCore x c).sp = s.sp := rfl
@[simp] theorem State.addCore_dptr (s : State) (x : Byte) (c : Bool) : (s.addCore x c).dptr = s.dptr := rfl
@[simp] theorem State.addCore_iram (s : State) (x : Byte) (c : Bool) : (s.addCore x c).iram = s.iram := rfl
@[simp] theorem State.addCore_code (s : State) (x : Byte) (c : Bool) : (s.addCore x c).code = s.code := rfl
@[simp] theorem State.addCore_codeSize (s : State) (x : Byte) (c : Bool) : (s.addCore x c).codeSize = s.codeSize := rfl
@[simp] theorem State.addCore_xdata (s : State) (x : Byte) (c : Bool) : (s.addCore x c).xdata = s.xdata := rfl
@[simp] theorem State.addCore_xdataSize (s : State) (x : Byte) (c : Bool) : (s.addCore x c).xdataSize = s.xdataSize := rfl
@[simp] theorem State.addCore_inReg (s : State) (x : Byte) (c : Bool) : (s.addCore x c).inReg = s.inReg := rfl
@[simp] theorem State.addCore_outReg (s : State) (x : Byte) (c : Bool) : (s.addCore x c).outReg = s.outReg := rfl
@[simp] theorem State.addCore_inputs (s : State) (x : Byte) (c : Bool) : (s.addCore x c).inputs = s.inputs := rfl
@[simp] theorem State.addCore_draws (s : State) (x : Byte) (c : Bool) : (s.addCore x c).draws = s.draws := rfl
@[simp] theorem State.addCore_trace (s : State) (x : Byte) (c : Bool) : (s.addCore x c).trace = s.trace := rfl

@[simp] theorem State.subCore_pc (s : State) (x : Byte) (c : Bool) : (s.subCore x c).pc = s.pc := rfl
@[simp] theorem State.subCore_b (s : State) (x : Byte) (c : Bool) : (s.subCore x c).b = s.b := rfl
@[simp] theorem State.subCore_sp (s : State) (x : Byte) (c : Bool) : (s.subCore x c).sp = s.sp := rfl
@[simp] theorem State.subCore_dptr (s : State) (x : Byte) (c : Bool) : (s.subCore x c).dptr = s.dptr := rfl
@[simp] theorem State.subCore_iram (s : State) (x : Byte) (c : Bool) : (s.subCore x c).iram = s.iram := rfl
@[simp] theorem State.subCore_code (s : State) (x : Byte) (c : Bool) : (s.subCore x c).code = s.code := rfl
@[simp] theorem State.subCore_codeSize (s : State) (x : Byte) (c : Bool) : (s.subCore x c).codeSize = s.codeSize := rfl
@[simp] theorem State.subCore_xdata (s : State) (x : Byte) (c : Bool) : (s.subCore x c).xdata = s.xdata := rfl
@[simp] theorem State.subCore_xdataSize (s : State) (x : Byte) (c : Bool) : (s.subCore x c).xdataSize = s.xdataSize := rfl
@[simp] theorem State.subCore_inReg (s : State) (x : Byte) (c : Bool) : (s.subCore x c).inReg = s.inReg := rfl
@[simp] theorem State.subCore_outReg (s : State) (x : Byte) (c : Bool) : (s.subCore x c).outReg = s.outReg := rfl
@[simp] theorem State.subCore_inputs (s : State) (x : Byte) (c : Bool) : (s.subCore x c).inputs = s.inputs := rfl
@[simp] theorem State.subCore_draws (s : State) (x : Byte) (c : Bool) : (s.subCore x c).draws = s.draws := rfl
@[simp] theorem State.subCore_trace (s : State) (x : Byte) (c : Bool) : (s.subCore x c).trace = s.trace := rfl

@[simp] theorem State.daCore_pc (s : State) : (s.daCore).pc = s.pc := rfl
@[simp] theorem State.daCore_b (s : State) : (s.daCore).b = s.b := rfl
@[simp] theorem State.daCore_sp (s : State) : (s.daCore).sp = s.sp := rfl
@[simp] theorem State.daCore_dptr (s : State) : (s.daCore).dptr = s.dptr := rfl
@[simp] theorem State.daCore_iram (s : State) : (s.daCore).iram = s.iram := rfl
@[simp] theorem State.daCore_code (s : State) : (s.daCore).code = s.code := rfl
@[simp] theorem State.daCore_codeSize (s : State) : (s.daCore).codeSize = s.codeSize := rfl
@[simp] theorem State.daCore_xdata (s : State) : (s.daCore).xdata = s.xdata := rfl
@[simp] theorem State.daCore_xdataSize (s : State) : (s.daCore).xdataSize = s.xdataSize := rfl
@[simp] theorem State.daCore_inReg (s : State) : (s.daCore).inReg = s.inReg := rfl
@[simp] theorem State.daCore_outReg (s : State) : (s.daCore).outReg = s.outReg := rfl
@[simp] theorem State.daCore_inputs (s : State) : (s.daCore).inputs = s.inputs := rfl
@[simp] theorem State.daCore_draws (s : State) : (s.daCore).draws = s.draws := rfl
@[simp] theorem State.daCore_trace (s : State) : (s.daCore).trace = s.trace := rfl

@[simp] theorem State.rlcCore_pc (s : State) : (s.rlcCore).pc = s.pc := rfl
@[simp] theorem State.rlcCore_b (s : State) : (s.rlcCore).b = s.b := rfl
@[simp] theorem State.rlcCore_sp (s : State) : (s.rlcCore).sp = s.sp := rfl
@[simp] theorem State.rlcCore_dptr (s : State) : (s.rlcCore).dptr = s.dptr := rfl
@[simp] theorem State.rlcCore_iram (s : State) : (s.rlcCore).iram = s.iram := rfl
@[simp] theorem State.rlcCore_code (s : State) : (s.rlcCore).code = s.code := rfl
@[simp] theorem State.rlcCore_codeSize (s : State) : (s.rlcCore).codeSize = s.codeSize := rfl
@[simp] theorem State.rlcCore_xdata (s : State) : (s.rlcCore).xdata = s.xdata := rfl
@[simp] theorem State.rlcCore_xdataSize (s : State) : (s.rlcCore).xdataSize = s.xdataSize := rfl
@[simp] theorem State.rlcCore_inReg (s : State) : (s.rlcCore).inReg = s.inReg := rfl
@[simp] theorem State.rlcCore_outReg (s : State) : (s.rlcCore).outReg = s.outReg := rfl
@[simp] theorem State.rlcCore_inputs (s : State) : (s.rlcCore).inputs = s.inputs := rfl
@[simp] theorem State.rlcCore_draws (s : State) : (s.rlcCore).draws = s.draws := rfl
@[simp] theorem State.rlcCore_trace (s : State) : (s.rlcCore).trace = s.trace := rfl

@[simp] theorem State.rrcCore_pc (s : State) : (s.rrcCore).pc = s.pc := rfl
@[simp] theorem State.rrcCore_b (s : State) : (s.rrcCore).b = s.b := rfl
@[simp] theorem State.rrcCore_sp (s : State) : (s.rrcCore).sp = s.sp := rfl
@[simp] theorem State.rrcCore_dptr (s : State) : (s.rrcCore).dptr = s.dptr := rfl
@[simp] theorem State.rrcCore_iram (s : State) : (s.rrcCore).iram = s.iram := rfl
@[simp] theorem State.rrcCore_code (s : State) : (s.rrcCore).code = s.code := rfl
@[simp] theorem State.rrcCore_codeSize (s : State) : (s.rrcCore).codeSize = s.codeSize := rfl
@[simp] theorem State.rrcCore_xdata (s : State) : (s.rrcCore).xdata = s.xdata := rfl
@[simp] theorem State.rrcCore_xdataSize (s : State) : (s.rrcCore).xdataSize = s.xdataSize := rfl
@[simp] theorem State.rrcCore_inReg (s : State) : (s.rrcCore).inReg = s.inReg := rfl
@[simp] theorem State.rrcCore_outReg (s : State) : (s.rrcCore).outReg = s.outReg := rfl
@[simp] theorem State.rrcCore_inputs (s : State) : (s.rrcCore).inputs = s.inputs := rfl
@[simp] theorem State.rrcCore_draws (s : State) : (s.rrcCore).draws = s.draws := rfl
@[simp] theorem State.rrcCore_trace (s : State) : (s.rrcCore).trace = s.trace := rfl

/-! ## `mulCore`, `divCore`: A, B and PSW -/

@[simp] theorem State.mulCore_pc (s : State) : (s.mulCore).pc = s.pc := rfl
@[simp] theorem State.mulCore_sp (s : State) : (s.mulCore).sp = s.sp := rfl
@[simp] theorem State.mulCore_dptr (s : State) : (s.mulCore).dptr = s.dptr := rfl
@[simp] theorem State.mulCore_iram (s : State) : (s.mulCore).iram = s.iram := rfl
@[simp] theorem State.mulCore_code (s : State) : (s.mulCore).code = s.code := rfl
@[simp] theorem State.mulCore_codeSize (s : State) : (s.mulCore).codeSize = s.codeSize := rfl
@[simp] theorem State.mulCore_xdata (s : State) : (s.mulCore).xdata = s.xdata := rfl
@[simp] theorem State.mulCore_xdataSize (s : State) : (s.mulCore).xdataSize = s.xdataSize := rfl
@[simp] theorem State.mulCore_inReg (s : State) : (s.mulCore).inReg = s.inReg := rfl
@[simp] theorem State.mulCore_outReg (s : State) : (s.mulCore).outReg = s.outReg := rfl
@[simp] theorem State.mulCore_inputs (s : State) : (s.mulCore).inputs = s.inputs := rfl
@[simp] theorem State.mulCore_draws (s : State) : (s.mulCore).draws = s.draws := rfl
@[simp] theorem State.mulCore_trace (s : State) : (s.mulCore).trace = s.trace := rfl

@[simp] theorem State.divCore_pc (s : State) : (s.divCore).pc = s.pc := by unfold divCore; split <;> rfl
@[simp] theorem State.divCore_sp (s : State) : (s.divCore).sp = s.sp := by unfold divCore; split <;> rfl
@[simp] theorem State.divCore_dptr (s : State) : (s.divCore).dptr = s.dptr := by unfold divCore; split <;> rfl
@[simp] theorem State.divCore_iram (s : State) : (s.divCore).iram = s.iram := by unfold divCore; split <;> rfl
@[simp] theorem State.divCore_code (s : State) : (s.divCore).code = s.code := by unfold divCore; split <;> rfl
@[simp] theorem State.divCore_codeSize (s : State) : (s.divCore).codeSize = s.codeSize := by unfold divCore; split <;> rfl
@[simp] theorem State.divCore_xdata (s : State) : (s.divCore).xdata = s.xdata := by unfold divCore; split <;> rfl
@[simp] theorem State.divCore_xdataSize (s : State) : (s.divCore).xdataSize = s.xdataSize := by unfold divCore; split <;> rfl
@[simp] theorem State.divCore_inReg (s : State) : (s.divCore).inReg = s.inReg := by unfold divCore; split <;> rfl
@[simp] theorem State.divCore_outReg (s : State) : (s.divCore).outReg = s.outReg := by unfold divCore; split <;> rfl
@[simp] theorem State.divCore_inputs (s : State) : (s.divCore).inputs = s.inputs := by unfold divCore; split <;> rfl
@[simp] theorem State.divCore_draws (s : State) : (s.divCore).draws = s.draws := by unfold divCore; split <;> rfl
@[simp] theorem State.divCore_trace (s : State) : (s.divCore).trace = s.trace := by unfold divCore; split <;> rfl

/-! ## Reading what another field decides -/

theorem State.iramRead_of_iram {s t : State} (h : t.iram = s.iram) (d : Byte) :
    t.iramRead d = s.iramRead d := by simp [State.iramRead, h]

theorem State.regAddr_of_psw {s t : State} (h : t.psw = s.psw) (n : RegIndex) :
    t.regAddr n = s.regAddr n := by simp [State.regAddr, State.bankBase, h]

end Sys2Proof.Machine
end

