-- ==== Sys2Proof/Laws/Bits.lean ====
section
/-! SUPPORT. Bits of bytes and of PSW, and the operand and target computations as numbers. -/
namespace Sys2Proof.Machine

/-! ## `setBit` -/

/-- Bit `k` after bit `pos` is replaced. -/
theorem setBit_getLsbD (t : Byte) (pos k : Nat) (v : Bool) (h : pos < 8) :
    (setBit t pos v).getLsbD k = if k = pos then v else t.getLsbD k := by
  by_cases hk : k < 8
  · interval_cases pos <;> interval_cases k <;> cases v <;> simp [setBit]
  · rw [if_neg (by omega), BitVec.getLsbD_of_ge _ _ (by omega), BitVec.getLsbD_of_ge _ _ (by omega)]

/-- Replacing a bit by itself. -/
theorem setBit_eq_iff (t u : Byte) (pos : Nat) (v : Bool) (h : pos < 8) :
    u = setBit t pos v ↔ ∀ k, k < 8 → u.getLsbD k = if k = pos then v else t.getLsbD k := by
  refine ⟨fun e k _ => by rw [e, setBit_getLsbD t pos k v h], fun e => BitVec.eq_of_getLsbD_eq fun k hk => ?_⟩
  rw [setBit_getLsbD t pos k v h, e k hk]

/-- Setting a bit is an OR with its mask, clearing it an AND with the mask's complement. -/
theorem setBit_true (t : Byte) (pos : Nat) (h : pos < 8) : setBit t pos true = t ||| (1#8 <<< pos) := by
  symm; rw [setBit_eq_iff t _ pos true h]
  intro k hk
  interval_cases pos <;> interval_cases k <;> simp

theorem setBit_false (t : Byte) (pos : Nat) (h : pos < 8) : setBit t pos false = t &&& ~~~(1#8 <<< pos) := by
  symm; rw [setBit_eq_iff t _ pos false h]
  intro k hk
  interval_cases pos <;> interval_cases k <;> simp

/-- Complementing a bit is an XOR with its mask. -/
theorem setBit_not (t : Byte) (pos : Nat) (h : pos < 8) :
    setBit t pos (!t.getLsbD pos) = t ^^^ (1#8 <<< pos) := by
  symm; rw [setBit_eq_iff t _ pos _ h]
  intro k hk
  interval_cases pos <;> interval_cases k <;> simp

/-! ## The flags after an update -/

/-- One bit of PSW after one bit of it is replaced. -/
theorem State.setPswBit_bit (s : State) (pos k : Nat) (v : Bool) (h : pos < 8) :
    (s.setPswBit pos v).psw.getLsbD k = if k = pos then v else s.psw.getLsbD k :=
  setBit_getLsbD s.psw pos k v h

/-- One bit of PSW after A is written: P is the parity, every other bit as before. -/
theorem State.writeA_bit (s : State) (v : Byte) (k : Nat) :
    (s.writeA v).psw.getLsbD k = if k = 0 then parity v else s.psw.getLsbD k :=
  setBit_getLsbD s.psw 0 k (parity v) (by decide)

/-- P after A is written. -/
theorem State.writeA_p (s : State) (v : Byte) : (s.writeA v).p = parity v := by
  rw [State.p, State.writeA_bit, if_pos rfl]

/-- Writing PSW bits other than RS1 and RS0 leaves the register addresses alone. -/
theorem State.regAddr_of_bits {s t : State} (h4 : t.psw.getLsbD 4 = s.psw.getLsbD 4)
    (h3 : t.psw.getLsbD 3 = s.psw.getLsbD 3) (n : RegIndex) : t.regAddr n = s.regAddr n := by
  have e : (t.psw >>> 3) &&& (0x3 : Byte) = (s.psw >>> 3) &&& (0x3 : Byte) := by
    refine BitVec.eq_of_getLsbD_eq fun k hk => ?_
    rw [BitVec.getLsbD_and, BitVec.getLsbD_and, BitVec.getLsbD_ushiftRight, BitVec.getLsbD_ushiftRight]
    interval_cases k <;> first | rw [h3] | rw [h4] | exact (Bool.and_false _).trans (Bool.and_false _).symm
  rw [State.regAddr, State.regAddr, State.bankBase, State.bankBase, e]

/-! ## Register addresses -/

theorem State.bankBase_toNat (s : State) : s.bankBase.toNat = s.psw.toNat / 8 % 4 * 8 := by
  have h : ∀ w : Byte, (((w >>> 3) &&& 0x3#8) * 8#8).toNat = w.toNat / 8 % 4 * 8 := by decide
  exact h s.psw

theorem State.regAddr_toNat (s : State) (n : RegIndex) : (s.regAddr n).toNat = s.bankBase.toNat + n.toNat := by
  have hb := s.bankBase_toNat
  have hn := n.isLt
  simp only [State.regAddr, BitVec.toNat_add, BitVec.toNat_setWidth]
  omega

/-- A register address is never in the callback window. -/
theorem State.regAddr_le (s : State) (n : RegIndex) : (s.regAddr n).toNat ≤ 31 := by
  have := s.regAddr_toNat n
  have := s.bankBase_toNat
  have := n.isLt
  omega

/-! ## Bit addresses -/

theorem bitPos_eq (b : Byte) : bitPos b = b.toNat % 8 := by
  have h : ∀ b : Byte, bitPos b = b.toNat % 8 := by decide
  exact h b

theorem bitPos_lt (b : Byte) : bitPos b < 8 := by
  have := bitPos_eq b
  omega

theorem bitByte_low (b : Byte) (h : b.toNat < 128) : (bitByte b).toNat = 32 + b.toNat / 8 := by
  have h' : ∀ b : Byte, b.toNat < 128 → (bitByte b).toNat = 32 + b.toNat / 8 := by decide
  exact h' b h

theorem bitByte_high (b : Byte) (h : 128 ≤ b.toNat) : (bitByte b).toNat = b.toNat / 8 * 8 := by
  have h' : ∀ b : Byte, 128 ≤ b.toNat → (bitByte b).toNat = b.toNat / 8 * 8 := by decide
  exact h' b h

/-- A bit address is its byte and its position. -/
theorem bitAddr_inj (b c : Byte) (hb : bitByte b = bitByte c) (hp : bitPos b = bitPos c) : b = c := by
  apply BitVec.eq_of_toNat_eq
  have hn : (bitByte b).toNat = (bitByte c).toNat := by rw [hb]
  rw [bitPos_eq, bitPos_eq] at hp
  have := b.isLt
  have := c.isLt
  rcases Nat.lt_or_ge b.toNat 128 with h | h <;> rcases Nat.lt_or_ge c.toNat 128 with h' | h'
  · rw [bitByte_low b h, bitByte_low c h'] at hn; omega
  · rw [bitByte_low b h, bitByte_high c h'] at hn; omega
  · rw [bitByte_high b h, bitByte_low c h'] at hn; omega
  · rw [bitByte_high b h, bitByte_high c h'] at hn; omega

/-! ## Code addresses -/

theorem State.pcNext_toNat (s : State) (len : Nat) : (s.pcNext len).toNat = (s.pc.toNat + len) % 65536 := by
  simp [State.pcNext, BitVec.toNat_add]

theorem State.relTarget_toNat (s : State) (len : Nat) (e : Byte) :
    ((s.relTarget len e).toNat : Int) = ((s.pc.toNat : Int) + len + e.toInt) % 65536 := by
  have he : ((e.signExtend 16).toNat : Int) = e.toInt % 65536 := by
    have h : ∀ e : Byte, ((e.signExtend 16).toNat : Int) = e.toInt % 65536 := by decide
    exact h e
  rw [State.relTarget, BitVec.toNat_add, State.pcNext_toNat]
  push_cast
  rw [he]
  omega

theorem State.aPlusDptr_toNat (s : State) : s.aPlusDptr.toNat = (s.a.toNat + s.dptr.toNat) % 65536 := by
  have := s.a.isLt
  simp only [State.aPlusDptr, BitVec.toNat_add, BitVec.toNat_setWidth]
  omega

theorem State.aPlusPc_toNat (s : State) : s.aPlusPc.toNat = (s.a.toNat + (s.pc.toNat + 1)) % 65536 := by
  have := s.a.isLt
  rw [State.aPlusPc, BitVec.toNat_add, State.pcNext_toNat, BitVec.toNat_setWidth]
  omega

/-- `(PCn & 0xF800) | addr11`, as the page of PCn and the offset. -/
theorem State.pageTarget_toNat (s : State) (hi : BitVec 3) (lo : Byte) :
    (s.pageTarget (hi ++ lo)).toNat =
      (s.pc.toNat + 2) % 65536 / 2048 * 2048 + hi.toNat * 256 + lo.toNat := by
  have hm : s.pcNext 2 &&& (0xF800 : Word) = (s.pcNext 2 >>> 11) <<< 11 := by
    refine BitVec.eq_of_getLsbD_eq fun k hk => ?_
    interval_cases k <;> simp
  have ha : ((hi ++ lo : PageOffset).setWidth 16).toNat = hi.toNat * 256 + lo.toNat := by
    rw [BitVec.toNat_setWidth, BitVec.toNat_append, ← Nat.shiftLeft_add_eq_or_of_lt lo.isLt, Nat.shiftLeft_eq]
    have := lo.isLt
    have := hi.isLt
    omega
  have hlt : hi.toNat * 256 + lo.toNat < 2 ^ 11 := by
    have := lo.isLt
    have := hi.isLt
    omega
  have hp : ((s.pcNext 2 >>> 11) <<< 11).toNat = ((s.pcNext 2).toNat / 2048) <<< 11 := by
    have := (s.pcNext 2).isLt
    rw [BitVec.toNat_shiftLeft, BitVec.toNat_ushiftRight, Nat.shiftRight_eq_div_pow, Nat.shiftLeft_eq]
    omega
  rw [State.pageTarget, hm, BitVec.toNat_or, hp, ha, ← Nat.shiftLeft_add_eq_or_of_lt hlt, State.pcNext_toNat,
    Nat.shiftLeft_eq]
  omega

/-- A word of two bytes, as a number. -/
theorem word_toNat (hi lo : Byte) : (hi ++ lo : Word).toNat = hi.toNat * 256 + lo.toNat := by
  rw [BitVec.toNat_append, ← Nat.shiftLeft_add_eq_or_of_lt lo.isLt, Nat.shiftLeft_eq]

theorem word_high_low (w : Word) : w.extractLsb' 8 8 ++ w.extractLsb' 0 8 = w := by
  apply BitVec.eq_of_toNat_eq
  have := w.isLt
  rw [word_toNat, BitVec.extractLsb'_toNat, BitVec.extractLsb'_toNat, Nat.shiftRight_eq_div_pow]
  omega

theorem page_toNat (hi : BitVec 3) (lo : Byte) : (hi ++ lo : PageOffset).toNat = hi.toNat * 256 + lo.toNat := by
  rw [BitVec.toNat_append, ← Nat.shiftLeft_add_eq_or_of_lt lo.isLt, Nat.shiftLeft_eq]

theorem page_high_low (a : PageOffset) : a.extractLsb' 8 3 ++ a.extractLsb' 0 8 = a := by
  apply BitVec.eq_of_toNat_eq
  have := a.isLt
  rw [page_toNat, BitVec.extractLsb'_toNat, BitVec.extractLsb'_toNat, Nat.shiftRight_eq_div_pow]
  omega

/-- The halves of a word of two bytes, and of a page offset. -/
theorem word_halves (hi lo : Byte) :
    (hi ++ lo : Word).extractLsb' 8 8 = hi ∧ (hi ++ lo : Word).extractLsb' 0 8 = lo := by
  have := hi.isLt
  have := lo.isLt
  constructor <;> apply BitVec.eq_of_toNat_eq <;>
    rw [BitVec.extractLsb'_toNat, word_toNat, Nat.shiftRight_eq_div_pow] <;> omega

theorem page_halves (hi : BitVec 3) (lo : Byte) :
    (hi ++ lo : PageOffset).extractLsb' 8 3 = hi ∧ (hi ++ lo : PageOffset).extractLsb' 0 8 = lo := by
  have := hi.isLt
  have := lo.isLt
  constructor <;> apply BitVec.eq_of_toNat_eq <;>
    rw [BitVec.extractLsb'_toNat, page_toNat, Nat.shiftRight_eq_div_pow] <;> omega

end Sys2Proof.Machine
end

