-- ==== Sys2Proof/Laws/PerInstr.lean ====
section
/-! SUPPORT. Per instruction: an instruction's encoding is as long as its opcode says
(`30_encoding.md` R123). -/
namespace Sys2Proof.Laws.EncodedLength

/-- The encoding of `i` has exactly as many bytes as the decoder reads for its opcode byte. -/
def Statement (i : Instr) : Prop := opcodeLength ((encode i).headD 0) = i.length

/-- The eight opcodes of an `Rn` row. -/
theorem regOpcode (p : BitVec 5) (len : Nat) (h : ∀ n : RegIndex, opcodeLength (p ++ n) = len) (n : RegIndex) :
    opcodeLength (p ++ n) = len := h n

/-- The two opcodes of an `@Ri` row. -/
theorem ptrOpcode (p : BitVec 7) (len : Nat) (h : ∀ i : PtrIndex, opcodeLength (p ++ i) = len) (i : PtrIndex) :
    opcodeLength (p ++ i) = len := h i

/-- The eight opcodes of an `addr11` row. -/
theorem pageOpcode (p : BitVec 5) (h : ∀ x : BitVec 3, opcodeLength (x ++ p) = 2) (x : BitVec 3) :
    opcodeLength (x ++ p) = 2 := h x

theorem addARn (n : RegIndex) : Statement (.addARn n) := regOpcode 0b00101#5 1 (by decide) n
theorem addADirect (d : Byte) : Statement (.addADirect d) := (by decide : opcodeLength 0x25 = 2)
theorem addAInd (i : PtrIndex) : Statement (.addAInd i) := ptrOpcode 0b0010011#7 1 (by decide) i
theorem addAImm (k : Byte) : Statement (.addAImm k) := (by decide : opcodeLength 0x24 = 2)
theorem addcARn (n : RegIndex) : Statement (.addcARn n) := regOpcode 0b00111#5 1 (by decide) n
theorem addcADirect (d : Byte) : Statement (.addcADirect d) := (by decide : opcodeLength 0x35 = 2)
theorem addcAInd (i : PtrIndex) : Statement (.addcAInd i) := ptrOpcode 0b0011011#7 1 (by decide) i
theorem addcAImm (k : Byte) : Statement (.addcAImm k) := (by decide : opcodeLength 0x34 = 2)
theorem subbARn (n : RegIndex) : Statement (.subbARn n) := regOpcode 0b10011#5 1 (by decide) n
theorem subbADirect (d : Byte) : Statement (.subbADirect d) := (by decide : opcodeLength 0x95 = 2)
theorem subbAInd (i : PtrIndex) : Statement (.subbAInd i) := ptrOpcode 0b1001011#7 1 (by decide) i
theorem subbAImm (k : Byte) : Statement (.subbAImm k) := (by decide : opcodeLength 0x94 = 2)
theorem incA : Statement .incA := (by decide : opcodeLength 0x04 = 1)
theorem incRn (n : RegIndex) : Statement (.incRn n) := regOpcode 0b00001#5 1 (by decide) n
theorem incDirect (d : Byte) : Statement (.incDirect d) := (by decide : opcodeLength 0x05 = 2)
theorem incInd (i : PtrIndex) : Statement (.incInd i) := ptrOpcode 0b0000011#7 1 (by decide) i
theorem incDptr : Statement .incDptr := (by decide : opcodeLength 0xA3 = 1)
theorem decA : Statement .decA := (by decide : opcodeLength 0x14 = 1)
theorem decRn (n : RegIndex) : Statement (.decRn n) := regOpcode 0b00011#5 1 (by decide) n
theorem decDirect (d : Byte) : Statement (.decDirect d) := (by decide : opcodeLength 0x15 = 2)
theorem decInd (i : PtrIndex) : Statement (.decInd i) := ptrOpcode 0b0001011#7 1 (by decide) i
theorem mulAB : Statement .mulAB := (by decide : opcodeLength 0xA4 = 1)
theorem divAB : Statement .divAB := (by decide : opcodeLength 0x84 = 1)
theorem daA : Statement .daA := (by decide : opcodeLength 0xD4 = 1)
theorem anlARn (n : RegIndex) : Statement (.anlARn n) := regOpcode 0b01011#5 1 (by decide) n
theorem anlADirect (d : Byte) : Statement (.anlADirect d) := (by decide : opcodeLength 0x55 = 2)
theorem anlAInd (i : PtrIndex) : Statement (.anlAInd i) := ptrOpcode 0b0101011#7 1 (by decide) i
theorem anlAImm (k : Byte) : Statement (.anlAImm k) := (by decide : opcodeLength 0x54 = 2)
theorem anlDirectA (d : Byte) : Statement (.anlDirectA d) := (by decide : opcodeLength 0x52 = 2)
theorem anlDirectImm (d k : Byte) : Statement (.anlDirectImm d k) := (by decide : opcodeLength 0x53 = 3)
theorem orlARn (n : RegIndex) : Statement (.orlARn n) := regOpcode 0b01001#5 1 (by decide) n
theorem orlADirect (d : Byte) : Statement (.orlADirect d) := (by decide : opcodeLength 0x45 = 2)
theorem orlAInd (i : PtrIndex) : Statement (.orlAInd i) := ptrOpcode 0b0100011#7 1 (by decide) i
theorem orlAImm (k : Byte) : Statement (.orlAImm k) := (by decide : opcodeLength 0x44 = 2)
theorem orlDirectA (d : Byte) : Statement (.orlDirectA d) := (by decide : opcodeLength 0x42 = 2)
theorem orlDirectImm (d k : Byte) : Statement (.orlDirectImm d k) := (by decide : opcodeLength 0x43 = 3)
theorem xrlARn (n : RegIndex) : Statement (.xrlARn n) := regOpcode 0b01101#5 1 (by decide) n
theorem xrlADirect (d : Byte) : Statement (.xrlADirect d) := (by decide : opcodeLength 0x65 = 2)
theorem xrlAInd (i : PtrIndex) : Statement (.xrlAInd i) := ptrOpcode 0b0110011#7 1 (by decide) i
theorem xrlAImm (k : Byte) : Statement (.xrlAImm k) := (by decide : opcodeLength 0x64 = 2)
theorem xrlDirectA (d : Byte) : Statement (.xrlDirectA d) := (by decide : opcodeLength 0x62 = 2)
theorem xrlDirectImm (d k : Byte) : Statement (.xrlDirectImm d k) := (by decide : opcodeLength 0x63 = 3)
theorem clrA : Statement .clrA := (by decide : opcodeLength 0xE4 = 1)
theorem cplA : Statement .cplA := (by decide : opcodeLength 0xF4 = 1)
theorem rlA : Statement .rlA := (by decide : opcodeLength 0x23 = 1)
theorem rlcA : Statement .rlcA := (by decide : opcodeLength 0x33 = 1)
theorem rrA : Statement .rrA := (by decide : opcodeLength 0x03 = 1)
theorem rrcA : Statement .rrcA := (by decide : opcodeLength 0x13 = 1)
theorem swapA : Statement .swapA := (by decide : opcodeLength 0xC4 = 1)
theorem movARn (n : RegIndex) : Statement (.movARn n) := regOpcode 0b11101#5 1 (by decide) n
theorem movADirect (d : Byte) : Statement (.movADirect d) := (by decide : opcodeLength 0xE5 = 2)
theorem movAInd (i : PtrIndex) : Statement (.movAInd i) := ptrOpcode 0b1110011#7 1 (by decide) i
theorem movAImm (k : Byte) : Statement (.movAImm k) := (by decide : opcodeLength 0x74 = 2)
theorem movRnA (n : RegIndex) : Statement (.movRnA n) := regOpcode 0b11111#5 1 (by decide) n
theorem movRnDirect (n : RegIndex) (d : Byte) : Statement (.movRnDirect n d) :=
  regOpcode 0b10101#5 2 (by decide) n
theorem movRnImm (n : RegIndex) (k : Byte) : Statement (.movRnImm n k) := regOpcode 0b01111#5 2 (by decide) n
theorem movDirectA (d : Byte) : Statement (.movDirectA d) := (by decide : opcodeLength 0xF5 = 2)
theorem movDirectRn (n : RegIndex) (d : Byte) : Statement (.movDirectRn n d) :=
  regOpcode 0b10001#5 2 (by decide) n
theorem movDirectDirect (src dst : Byte) : Statement (.movDirectDirect src dst) :=
  (by decide : opcodeLength 0x85 = 3)
theorem movDirectInd (i : PtrIndex) (d : Byte) : Statement (.movDirectInd i d) :=
  ptrOpcode 0b1000011#7 2 (by decide) i
theorem movDirectImm (d k : Byte) : Statement (.movDirectImm d k) := (by decide : opcodeLength 0x75 = 3)
theorem movIndA (i : PtrIndex) : Statement (.movIndA i) := ptrOpcode 0b1111011#7 1 (by decide) i
theorem movIndDirect (i : PtrIndex) (d : Byte) : Statement (.movIndDirect i d) :=
  ptrOpcode 0b1010011#7 2 (by decide) i
theorem movIndImm (i : PtrIndex) (k : Byte) : Statement (.movIndImm i k) :=
  ptrOpcode 0b0111011#7 2 (by decide) i
theorem movDptrImm (k : Word) : Statement (.movDptrImm k) := (by decide : opcodeLength 0x90 = 3)
theorem movcADptr : Statement .movcADptr := (by decide : opcodeLength 0x93 = 1)
theorem movcAPc : Statement .movcAPc := (by decide : opcodeLength 0x83 = 1)
theorem movxAInd (i : PtrIndex) : Statement (.movxAInd i) := ptrOpcode 0b1110001#7 1 (by decide) i
theorem movxADptr : Statement .movxADptr := (by decide : opcodeLength 0xE0 = 1)
theorem movxIndA (i : PtrIndex) : Statement (.movxIndA i) := ptrOpcode 0b1111001#7 1 (by decide) i
theorem movxDptrA : Statement .movxDptrA := (by decide : opcodeLength 0xF0 = 1)
theorem push (d : Byte) : Statement (.push d) := (by decide : opcodeLength 0xC0 = 2)
theorem pop (d : Byte) : Statement (.pop d) := (by decide : opcodeLength 0xD0 = 2)
theorem xchARn (n : RegIndex) : Statement (.xchARn n) := regOpcode 0b11001#5 1 (by decide) n
theorem xchADirect (d : Byte) : Statement (.xchADirect d) := (by decide : opcodeLength 0xC5 = 2)
theorem xchAInd (i : PtrIndex) : Statement (.xchAInd i) := ptrOpcode 0b1100011#7 1 (by decide) i
theorem xchdAInd (i : PtrIndex) : Statement (.xchdAInd i) := ptrOpcode 0b1101011#7 1 (by decide) i
theorem clrC : Statement .clrC := (by decide : opcodeLength 0xC3 = 1)
theorem clrBit (b : Byte) : Statement (.clrBit b) := (by decide : opcodeLength 0xC2 = 2)
theorem setbC : Statement .setbC := (by decide : opcodeLength 0xD3 = 1)
theorem setbBit (b : Byte) : Statement (.setbBit b) := (by decide : opcodeLength 0xD2 = 2)
theorem cplC : Statement .cplC := (by decide : opcodeLength 0xB3 = 1)
theorem cplBit (b : Byte) : Statement (.cplBit b) := (by decide : opcodeLength 0xB2 = 2)
theorem anlCBit (b : Byte) : Statement (.anlCBit b) := (by decide : opcodeLength 0x82 = 2)
theorem anlCNotBit (b : Byte) : Statement (.anlCNotBit b) := (by decide : opcodeLength 0xB0 = 2)
theorem orlCBit (b : Byte) : Statement (.orlCBit b) := (by decide : opcodeLength 0x72 = 2)
theorem orlCNotBit (b : Byte) : Statement (.orlCNotBit b) := (by decide : opcodeLength 0xA0 = 2)
theorem movCBit (b : Byte) : Statement (.movCBit b) := (by decide : opcodeLength 0xA2 = 2)
theorem movBitC (b : Byte) : Statement (.movBitC b) := (by decide : opcodeLength 0x92 = 2)
theorem jc (e : Byte) : Statement (.jc e) := (by decide : opcodeLength 0x40 = 2)
theorem jnc (e : Byte) : Statement (.jnc e) := (by decide : opcodeLength 0x50 = 2)
theorem jb (b e : Byte) : Statement (.jb b e) := (by decide : opcodeLength 0x20 = 3)
theorem jnb (b e : Byte) : Statement (.jnb b e) := (by decide : opcodeLength 0x30 = 3)
theorem jbc (b e : Byte) : Statement (.jbc b e) := (by decide : opcodeLength 0x10 = 3)
theorem acall (a : PageOffset) : Statement (.acall a) := pageOpcode 0b10001#5 (by decide) _
theorem lcall (a : Word) : Statement (.lcall a) := (by decide : opcodeLength 0x12 = 3)
theorem ret : Statement .ret := (by decide : opcodeLength 0x22 = 1)
theorem reti : Statement .reti := (by decide : opcodeLength 0x32 = 1)
theorem ajmp (a : PageOffset) : Statement (.ajmp a) := pageOpcode 0b00001#5 (by decide) _
theorem ljmp (a : Word) : Statement (.ljmp a) := (by decide : opcodeLength 0x02 = 3)
theorem sjmp (e : Byte) : Statement (.sjmp e) := (by decide : opcodeLength 0x80 = 2)
theorem jmpADptr : Statement .jmpADptr := (by decide : opcodeLength 0x73 = 1)
theorem jz (e : Byte) : Statement (.jz e) := (by decide : opcodeLength 0x60 = 2)
theorem jnz (e : Byte) : Statement (.jnz e) := (by decide : opcodeLength 0x70 = 2)
theorem cjneADirect (d e : Byte) : Statement (.cjneADirect d e) := (by decide : opcodeLength 0xB5 = 3)
theorem cjneAImm (k e : Byte) : Statement (.cjneAImm k e) := (by decide : opcodeLength 0xB4 = 3)
theorem cjneRnImm (n : RegIndex) (k e : Byte) : Statement (.cjneRnImm n k e) :=
  regOpcode 0b10111#5 3 (by decide) n
theorem cjneIndImm (i : PtrIndex) (k e : Byte) : Statement (.cjneIndImm i k e) :=
  ptrOpcode 0b1011011#7 3 (by decide) i
theorem djnzRn (n : RegIndex) (e : Byte) : Statement (.djnzRn n e) := regOpcode 0b11011#5 2 (by decide) n
theorem djnzDirect (d e : Byte) : Statement (.djnzDirect d e) := (by decide : opcodeLength 0xD5 = 3)
theorem nop : Statement .nop := (by decide : opcodeLength 0x00 = 1)
theorem reserved : Statement .reserved := (by decide : opcodeLength 0xA5 = 1)

end Sys2Proof.Laws.EncodedLength
end

