-- ==== Sys2Proof/Laws/Decode.lean ====
section
/-! SUPPORT. How a row of the opcode table is found, and the operand fields of an encoded opcode byte. -/
namespace Sys2Proof

/-- The first entry a test accepts stands at the first place it accepts. -/
theorem find_of_findIdx {α : Type} (p : α → Bool) (l : List α) (k : Nat) (h : l.findIdx? p = some k) :
    l.find? p = l[k]? := by
  induction l generalizing k with
  | nil => simp at h
  | cons x l ih =>
    rw [List.findIdx?_cons] at h
    rw [List.find?_cons]
    cases hx : p x with
    | true => simp [hx] at h; subst h; simp
    | false =>
      simp only [hx, Bool.false_eq_true, if_false, Option.map_eq_some_iff] at h
      obtain ⟨j, hj, rfl⟩ := h
      simpa using ih j hj

/-- The row an opcode byte selects, from its place in the table. -/
theorem lookup_of_findIdx {op : Byte} {k : Nat} {row : OpcodeRow}
    (h : opcodeTable.findIdx? (·.selects op) = some k) (hr : opcodeTable[k]? = some row) : lookup op = row := by
  rw [lookup, find_of_findIdx _ _ k h, hr, Option.getD_some]

/-- What the decoder reads from three bytes, from the place of the opcode's row in the table. -/
theorem decodeBytes_of_findIdx {op b1 b2 : Byte} {k : Nat} {row : OpcodeRow}
    (h : opcodeTable.findIdx? (·.selects op) = some k) (hr : opcodeTable[k]? = some row) :
    decodeBytes op b1 b2 = row.build op b1 b2 := by
  rw [decodeBytes, lookup_of_findIdx h hr]

/-- An instruction has one, two or three bytes (`30_encoding.md` R100). -/
theorem opcodeLength_bounds (op : Byte) : 1 ≤ opcodeLength op ∧ opcodeLength op ≤ 3 := by
  have h : ∀ op : Byte, 1 ≤ opcodeLength op ∧ opcodeLength op ≤ 3 := by decide +kernel
  exact h op

/-- A property of every row of the table is one of the row an opcode byte selects. -/
theorem lookup_of_forall {P : OpcodeRow → Prop} (h : ∀ row ∈ opcodeTable, P row) (op : Byte) : P (lookup op) := by
  have hs : ∀ op : Byte, (opcodeTable.find? (·.selects op)).isSome = true := by decide +kernel
  obtain ⟨row, hrow⟩ := Option.isSome_iff_exists.1 (hs op)
  have he : lookup op = row := by rw [lookup, hrow, Option.getD_some]
  exact he ▸ h row (List.mem_of_find?_eq_some hrow)

/-- A form of one byte does not look at the other two, one of two bytes does not look at the third. -/
theorem decodeBytes_unused (op b1 b2 : Byte) :
    (opcodeLength op ≤ 1 → decodeBytes op b1 b2 = decodeBytes op 0 0) ∧
    (opcodeLength op ≤ 2 → decodeBytes op b1 b2 = decodeBytes op b1 0) := by
  refine lookup_of_forall (P := fun row => (row.length ≤ 1 → row.build op b1 b2 = row.build op 0 0) ∧
    (row.length ≤ 2 → row.build op b1 b2 = row.build op b1 0)) ?_ op
  simp [opcodeTable, arithmeticRows, logicalRows, dataTransferRows, booleanRows, controlTransferRows]

/-! ## Operand fields of an encoded opcode byte -/

theorem regField_append (p : BitVec 5) (n : RegIndex) : regField (p ++ n) = n := by
  have h : ∀ (p : BitVec 5) (n : RegIndex), regField (p ++ n) = n := by decide
  exact h p n

theorem ptrField_append (p : BitVec 7) (i : PtrIndex) : ptrField (p ++ i) = i := by
  have h : ∀ (p : BitVec 7) (i : PtrIndex), ptrField (p ++ i) = i := by decide
  exact h p i

theorem pageField_append (x : BitVec 3) (p : BitVec 5) (lo : Byte) : pageField (x ++ p) lo = x ++ lo := by
  have h : ∀ (x : BitVec 3) (p : BitVec 5), (x ++ p : Byte).extractLsb' 5 3 = x := by decide
  rw [pageField, h]

/-! ## The decoder on one, two and three bytes -/

theorem decode_one {op : Byte} (h : opcodeLength op = 1) (rest : List Byte) :
    decode (op :: rest) = .ok (decodeBytes op (rest.getD 0 0) (rest.getD 1 0), rest) := by
  simp [decode, h]

theorem decode_two {op : Byte} (h : opcodeLength op = 2) (b1 : Byte) (rest : List Byte) :
    decode (op :: b1 :: rest) = .ok (decodeBytes op b1 (rest.getD 0 0), rest) := by
  simp [decode, h]

theorem decode_three {op : Byte} (h : opcodeLength op = 3) (b1 b2 : Byte) (rest : List Byte) :
    decode (op :: b1 :: b2 :: rest) = .ok (decodeBytes op b1 b2, rest) := by
  simp [decode, h]

end Sys2Proof
end

