-- ==== Sys2Proof/Laws/Memory.lean ====
section
/-! SUPPORT. The laws of a memory: what is read after a write, that every operation keeps the canonical form
and the bound on addresses, and that canonical memories with equal reads are equal. -/
namespace Sys2Proof.Machine

/-! ## Reading after one write -/

theorem Memory.read_nil (a : Nat) : Memory.read [] a = Config.unlistedByte := rfl

theorem Memory.read_cons (k : Nat) (w : Byte) (m : Memory) (a : Nat) :
    Memory.read ((k, w) :: m) a = if a = k then w else Memory.read m a := rfl

/-- An address that is not listed reads as the unlisted byte. -/
theorem Memory.read_unlisted (m : Memory) (a : Nat) (h : ∀ c ∈ m, c.1 ≠ a) :
    m.read a = Config.unlistedByte := by
  induction m with
  | nil => rfl
  | cons c m ih =>
    have hc : ¬a = c.1 := fun e => h c (by simp) e.symm
    rw [show c :: m = (c.1, c.2) :: m from rfl, Memory.read_cons, if_neg hc]
    exact ih fun d hd => h d (List.mem_cons_of_mem _ hd)

/-- `consCell` reads as its byte at its address, the rest elsewhere, if the rest does not list it. -/
theorem Memory.read_consCell (m : Memory) (a b : Nat) (v : Byte) (h : ∀ c ∈ m, c.1 ≠ a) :
    (Memory.consCell a v m).read b = if b = a then v else m.read b := by
  unfold Memory.consCell
  split
  · rename_i hv
    split
    · rename_i hb; subst hb; rw [Memory.read_unlisted m b h, hv]
    · rfl
  · rw [Memory.read_cons]

/-- A write leaves every other address alone, in any list of cells. -/
theorem Memory.read_write_ne (m : Memory) (a b : Nat) (v : Byte) (h : b ≠ a) :
    (m.write a v).read b = m.read b := by
  induction m with
  | nil => simp only [Memory.write, Memory.consCell]; split <;> simp [Memory.read, h]
  | cons c m ih =>
    obtain ⟨k, w⟩ := c
    simp only [Memory.write, Memory.consCell]
    split
    · split <;> simp [Memory.read_cons, h]
    · split
      · rename_i hk; subst hk
        split <;> simp [Memory.read_cons, h]
      · simp [Memory.read_cons, ih]

/-- In canonical form, the address written reads as the byte written. -/
theorem Memory.read_write_self (m : Memory) (a : Nat) (v : Byte) (h : m.wf) : (m.write a v).read a = v := by
  induction m with
  | nil => simp only [Memory.write]; rw [Memory.read_consCell _ _ _ _ (by simp)]; simp
  | cons c m ih =>
    obtain ⟨k, w⟩ := c
    obtain ⟨hp, hv⟩ := h
    rw [List.pairwise_cons] at hp
    simp only [Memory.write]
    split
    · rename_i hak
      rw [Memory.read_consCell _ _ _ _ ?_, if_pos rfl]
      intro d hd
      rcases List.mem_cons.1 hd with rfl | hd
      · exact Nat.ne_of_gt hak
      · exact Nat.ne_of_gt (Nat.lt_trans hak (hp.1 d hd))
    · split
      · rename_i hak; subst hak
        rw [Memory.read_consCell _ _ _ _ fun d hd => Nat.ne_of_gt (hp.1 d hd), if_pos rfl]
      · rename_i hak
        rw [Memory.read_cons, if_neg hak]
        exact ih ⟨hp.2, fun d hd => hv d (List.mem_cons_of_mem _ hd)⟩

/-- Reading after a write, in canonical form. -/
theorem Memory.read_write (m : Memory) (a b : Nat) (v : Byte) (h : m.wf) :
    (m.write a v).read b = if b = a then v else m.read b := by
  split
  · rename_i e; subst e; exact Memory.read_write_self m b v h
  · rename_i e; exact Memory.read_write_ne m a b v e

/-! ## A write keeps the canonical form and the bound -/

/-- A cell after a write is the cell written or a cell of before. -/
theorem Memory.mem_write (m : Memory) (a : Nat) (v : Byte) (c : Host.Cell) (h : c ∈ m.write a v) :
    (c = (a, v) ∧ v ≠ Config.unlistedByte) ∨ c ∈ m := by
  induction m with
  | nil => simp only [Memory.write, Memory.consCell] at h; split at h <;> simp_all
  | cons d m ih =>
    obtain ⟨k, w⟩ := d
    simp only [Memory.write, Memory.consCell] at h
    split at h
    · split at h
      · exact .inr h
      · rcases List.mem_cons.1 h with rfl | h
        · exact .inl ⟨rfl, ‹_›⟩
        · exact .inr h
    · split at h
      · split at h
        · exact .inr (List.mem_cons_of_mem _ h)
        · rcases List.mem_cons.1 h with rfl | h
          · exact .inl ⟨rfl, ‹_›⟩
          · exact .inr (List.mem_cons_of_mem _ h)
      · rcases List.mem_cons.1 h with rfl | h
        · exact .inr (by simp)
        · rcases ih h with h | h
          · exact .inl h
          · exact .inr (List.mem_cons_of_mem _ h)

/-- A write keeps the addresses rising. -/
theorem Memory.pairwise_write (m : Memory) (a : Nat) (v : Byte) (h : m.Pairwise (fun x y => x.1 < y.1)) :
    (m.write a v).Pairwise (fun x y => x.1 < y.1) := by
  induction m with
  | nil => simp only [Memory.write, Memory.consCell]; split <;> simp
  | cons d m ih =>
    obtain ⟨k, w⟩ := d
    obtain ⟨hk, hm⟩ := List.pairwise_cons.1 h
    simp only [Memory.write, Memory.consCell]
    split
    · rename_i hak
      split
      · exact h
      · refine List.pairwise_cons.2 ⟨fun c hc => ?_, h⟩
        rcases List.mem_cons.1 hc with rfl | hc
        · exact hak
        · exact Nat.lt_trans hak (hk c hc)
    · split
      · rename_i hak; subst hak
        split
        · exact hm
        · exact List.pairwise_cons.2 ⟨hk, hm⟩
      · rename_i h1 h2
        refine List.pairwise_cons.2 ⟨fun c hc => ?_, ih hm⟩
        rcases Memory.mem_write m a v c hc with ⟨rfl, -⟩ | hc
        · exact Nat.lt_of_le_of_ne (Nat.le_of_not_lt h1) (Ne.symm h2)
        · exact hk c hc

theorem Memory.wf_write (m : Memory) (a : Nat) (v : Byte) (h : m.wf) : (m.write a v).wf :=
  ⟨Memory.pairwise_write m a v h.1, fun c hc => by
    rcases Memory.mem_write m a v c hc with ⟨rfl, hv⟩ | hc
    · exact hv
    · exact h.2 c hc⟩

theorem Memory.below_write (n : Nat) (m : Memory) (a : Nat) (v : Byte) (h : m.below n) (ha : a < n) :
    (m.write a v).below n := fun c hc => by
  rcases Memory.mem_write m a v c hc with ⟨rfl, -⟩ | hc
  · exact ha
  · exact h c hc

theorem Memory.wf_nil : Memory.wf [] := by simp [Memory.wf]
theorem Memory.below_nil (n : Nat) : Memory.below n [] := by simp [Memory.below]
theorem Memory.below_mono {n k : Nat} {m : Memory} (h : m.below n) (hk : n ≤ k) : m.below k :=
  fun c hc => Nat.lt_of_lt_of_le (h c hc) hk

/-! ## Several bytes in a row -/

theorem Memory.wf_writeBytes (m : Memory) (a : Nat) (vs : List Byte) (h : m.wf) : (m.writeBytes a vs).wf := by
  induction vs generalizing m a with
  | nil => exact h
  | cons v vs ih => exact ih _ _ (Memory.wf_write m a v h)

theorem Memory.below_writeBytes (n : Nat) (m : Memory) (a : Nat) (vs : List Byte) (h : m.below n)
    (ha : a + vs.length ≤ n) : (m.writeBytes a vs).below n := by
  induction vs generalizing m a with
  | nil => exact h
  | cons v vs ih =>
    rw [List.length_cons] at ha
    exact ih _ _ (Memory.below_write n m a v h (by omega)) (by omega)

/-- Bytes written in a row are read back, and every other address is as before. -/
theorem Memory.read_writeBytes (m : Memory) (a b : Nat) (vs : List Byte) (h : m.wf) :
    (m.writeBytes a vs).read b =
      if hb : a ≤ b ∧ b < a + vs.length then vs[b - a]'(by omega) else m.read b := by
  induction vs generalizing m a with
  | nil =>
    have hb : ¬(a ≤ b ∧ b < a + ([] : List Byte).length) := by simp only [List.length_nil]; omega
    rw [dif_neg hb]; rfl
  | cons v vs ih =>
    rw [Memory.writeBytes, ih _ _ (Memory.wf_write m a v h), Memory.read_write m a b v h]
    rcases Nat.lt_trichotomy b a with hlt | heq | hgt
    · rw [dif_neg (by omega), dif_neg (by omega), if_neg (by omega)]
    · subst heq
      rw [dif_neg (by omega), if_pos rfl, dif_pos (by simp)]
      simp
    · by_cases hb : b < a + 1 + vs.length
      · rw [dif_pos (by omega), dif_pos (by simp only [List.length_cons]; omega)]
        obtain ⟨j, rfl⟩ := Nat.exists_eq_add_of_lt hgt
        simp only [show a + j + 1 - (a + 1) = j by omega, show a + j + 1 - a = j + 1 by omega,
          List.getElem_cons_succ]
      · rw [dif_neg (by omega), dif_neg (by simp only [List.length_cons]; omega), if_neg (by omega)]

/-! ## One form for one contents -/

/-- In canonical form every listed cell is what is read at its address. -/
theorem Memory.read_of_mem (m : Memory) (h : m.wf) (c : Host.Cell) (hc : c ∈ m) : m.read c.1 = c.2 := by
  induction m with
  | nil => simp at hc
  | cons d m ih =>
    obtain ⟨hp, hv⟩ := h
    obtain ⟨hd, hm⟩ := List.pairwise_cons.1 hp
    rw [show d :: m = (d.1, d.2) :: m from rfl, Memory.read_cons]
    rcases List.mem_cons.1 hc with rfl | hc
    · simp
    · rw [if_neg (Nat.ne_of_gt (hd c hc))]
      exact ih ⟨hm, fun e he => hv e (List.mem_cons_of_mem _ he)⟩ hc

/-- A cell is listed in a canonical memory exactly if its byte is read there and is not the unlisted one. -/
theorem Memory.mem_iff (m : Memory) (h : m.wf) (c : Host.Cell) :
    c ∈ m ↔ m.read c.1 = c.2 ∧ c.2 ≠ Config.unlistedByte := by
  refine ⟨fun hc => ⟨Memory.read_of_mem m h c hc, h.2 c hc⟩, fun ⟨hr, hu⟩ => ?_⟩
  by_contra hc
  refine hu (hr.symm.trans (Memory.read_unlisted m c.1 fun d hd e => hc ?_))
  have : d = c := Prod.ext e (by rw [← hr, ← e, Memory.read_of_mem m h d hd])
  exact this ▸ hd

/-- Canonical memories that read alike are equal. -/
theorem Memory.ext (m n : Memory) (hm : m.wf) (hn : n.wf) (h : ∀ a, m.read a = n.read a) : m = n := by
  have hmem : ∀ c, c ∈ m ↔ c ∈ n := fun c => by rw [Memory.mem_iff m hm, Memory.mem_iff n hn, h]
  have nd : ∀ l : Memory, l.wf → l.Nodup := fun l hl =>
    hl.1.imp fun {x y} (hxy : x.1 < y.1) e => by rw [e] at hxy; exact Nat.lt_irrefl _ hxy
  refine ((List.perm_ext_iff_of_nodup (nd m hm) (nd n hn)).2 hmem).eq_of_pairwise
    (fun x y _ _ (hxy : x.1 < y.1) (hyx : y.1 < x.1) => absurd hxy (Nat.lt_asymm hyx)) hm.1 hn.1

end Sys2Proof.Machine
end

