-- ==== Sys2Proof/Laws/Ops.lean ====
section
/-! SUPPORT. One lemma per shared operation: everything it can do. Callers cite it and do not unfold the
operation. -/
namespace Sys2Proof.Machine

/-! ## Outcomes -/

@[simp] theorem raise_ne_next (f : Fault) (t : State) : raise f ≠ .next t := by simp [raise]

@[simp] theorem orRaise_error {α : Type} (f : Fault) (k : α → Result) : orRaise (.error f) k = .fault f := rfl
@[simp] theorem orRaise_ok {α : Type} (x : α) (k : α → Result) : orRaise (.ok x) k = k x := rfl

/-- What a checked operation followed by a continuation answers. -/
theorem orRaise_eq_next {α : Type} {r : Except Fault α} {k : α → Result} {t : State}
    (h : orRaise r k = .next t) : ∃ x, r = .ok x ∧ k x = .next t := by
  cases r with
  | error f => simp at h
  | ok x => exact ⟨x, rfl, h⟩

/-! ## Internal RAM -/

theorem State.iramRead_iramWrite_ne (s : State) (d e v : Byte) (h : e ≠ d) :
    (s.iramWrite d v).iramRead e = s.iramRead e :=
  Memory.read_write_ne _ _ _ _ fun k => h (BitVec.eq_of_toNat_eq k)

theorem State.iramRead_iramWrite_self (s : State) (d v : Byte) (h : s.iram.wf) :
    (s.iramWrite d v).iramRead d = v := Memory.read_write_self _ _ _ h

theorem State.iramRead_iramWrite (s : State) (d e v : Byte) (h : s.iram.wf) :
    (s.iramWrite d v).iramRead e = if e = d then v else s.iramRead e := by
  split
  · rename_i k; subst k; exact s.iramRead_iramWrite_self e v h
  · rename_i k; exact s.iramRead_iramWrite_ne d e v k

/-- A register written is read back. -/
theorem State.regRead_iramWrite_self (s : State) (n : RegIndex) (v : Byte) (h : s.iram.wf) :
    (s.iramWrite (s.regAddr n) v).regRead n = v := s.iramRead_iramWrite_self (s.regAddr n) v h

/-! ## The port and routed access -/

theorem State.readsPort_iff (s : State) (d : Byte) : s.readsPort d = true ↔ 0x80 ≤ d ∧ d ∈ s.inReg := by
  simp [State.readsPort]

theorem State.writesPort_iff (s : State) (d : Byte) : s.writesPort d = true ↔ 0x80 ≤ d ∧ d ∈ s.outReg := by
  simp [State.writesPort]

theorem State.dRead_of_port (s : State) (d : Byte) (h : s.readsPort d = true) : s.dRead d = s.portIn d := by
  simp [State.dRead, h]

theorem State.dRead_of_iram (s : State) (d : Byte) (h : s.readsPort d = false) :
    s.dRead d = (s.iramRead d, s) := by simp [State.dRead, h]

theorem State.dWrite_of_port (s : State) (d v : Byte) (h : s.writesPort d = true) :
    s.dWrite d v = s.portOut d v := by simp [State.dWrite, h]

theorem State.dWrite_of_iram (s : State) (d v : Byte) (h : s.writesPort d = false) :
    s.dWrite d v = s.iramWrite d v := by simp [State.dWrite, h]

/-- The only two things a routed read can be. -/
theorem State.dRead_cases (s : State) (d : Byte) :
    (s.readsPort d = true ∧ s.dRead d = s.portIn d) ∨
    (s.readsPort d = false ∧ s.dRead d = (s.iramRead d, s)) := by
  cases h : s.readsPort d
  · exact .inr ⟨rfl, s.dRead_of_iram d h⟩
  · exact .inl ⟨rfl, s.dRead_of_port d h⟩

/-- The only two things a routed write can be. -/
theorem State.dWrite_cases (s : State) (d v : Byte) :
    (s.writesPort d = true ∧ s.dWrite d v = s.portOut d v) ∨
    (s.writesPort d = false ∧ s.dWrite d v = s.iramWrite d v) := by
  cases h : s.writesPort d
  · exact .inr ⟨rfl, s.dWrite_of_iram d v h⟩
  · exact .inl ⟨rfl, s.dWrite_of_port d v h⟩

/-- The byte a routed read gives. -/
theorem State.dRead_fst (s : State) (d : Byte) :
    (s.dRead d).1 = if s.readsPort d then s.nextInput d else s.iramRead d := by
  unfold State.dRead; split <;> rfl

@[simp] theorem State.dRead_writesPort (s : State) (d e : Byte) :
    (s.dRead d).2.writesPort e = s.writesPort e := by simp [State.writesPort]

@[simp] theorem State.dRead_iramRead (s : State) (d e : Byte) :
    (s.dRead d).2.iramRead e = s.iramRead e := by simp [State.iramRead]

@[simp] theorem State.dRead_regAddr (s : State) (d : Byte) (n : RegIndex) :
    (s.dRead d).2.regAddr n = s.regAddr n := by simp [State.regAddr, State.bankBase]

@[simp] theorem State.dRead_regRead (s : State) (d : Byte) (n : RegIndex) :
    (s.dRead d).2.regRead n = s.regRead n := by simp [State.regRead]

@[simp] theorem State.dRead_ptr (s : State) (d : Byte) (i : PtrIndex) :
    (s.dRead d).2.ptr i = s.ptr i := by simp [State.ptr]

@[simp] theorem State.dRead_pcNext (s : State) (d : Byte) (len : Nat) :
    (s.dRead d).2.pcNext len = s.pcNext len := by simp [State.pcNext]

@[simp] theorem State.dRead_relTarget (s : State) (d : Byte) (len : Nat) (e : Byte) :
    (s.dRead d).2.relTarget len e = s.relTarget len e := by simp [State.relTarget]

/-- IRAM after a routed write. -/
theorem State.dWrite_iramRead (s : State) (d v e : Byte) (h : s.iram.wf) :
    (s.dWrite d v).iramRead e = if e = d ∧ s.writesPort d = false then v else s.iramRead e := by
  rcases s.dWrite_cases d v with ⟨hp, hw⟩ | ⟨hp, hw⟩
  · rw [hw, if_neg (by simp [hp])]; rfl
  · rw [hw, s.iramRead_iramWrite d e v h]; simp [hp]

/-! ## The stack -/

theorem State.pushByte_ok_iff (s t : State) (v : Byte) :
    s.pushByte v = .ok t ↔ s.sp ≠ 0xFF ∧ t = (s.iramWrite (s.sp + 1) v).setSp (s.sp + 1) := by
  unfold State.pushByte
  split
  · exact ⟨fun h => by simp at h, fun h => absurd ‹_› h.1⟩
  · rw [Except.ok.injEq]
    exact ⟨fun h => ⟨‹_›, h.symm⟩, fun h => h.2.symm⟩

theorem State.popByte_ok_iff (s : State) (r : Byte × State) :
    s.popByte = .ok r ↔ s.sp ≠ 0x00 ∧ r = (s.iramRead s.sp, s.setSp (s.sp - 1)) := by
  unfold State.popByte
  split
  · exact ⟨fun h => by simp at h, fun h => absurd ‹_› h.1⟩
  · rw [Except.ok.injEq]
    exact ⟨fun h => ⟨‹_›, h.symm⟩, fun h => h.2.symm⟩

theorem State.pushWord_ok_iff (s t : State) (w : Word) :
    s.pushWord w = .ok t ↔ ¬0xFE ≤ s.sp ∧
      t = ((s.iramWrite (s.sp + 1) (w.extractLsb' 0 8)).iramWrite (s.sp + 2) (w.extractLsb' 8 8)).setSp
        (s.sp + 2) := by
  unfold State.pushWord
  split
  · exact ⟨fun h => by simp at h, fun h => absurd ‹_› h.1⟩
  · rw [Except.ok.injEq]
    exact ⟨fun h => ⟨‹_›, h.symm⟩, fun h => h.2.symm⟩

theorem State.popWord_ok_iff (s : State) (r : Word × State) :
    s.popWord = .ok r ↔ ¬s.sp ≤ 0x01 ∧
      r = (s.iramRead s.sp ++ s.iramRead (s.sp - 1), s.setSp (s.sp - 2)) := by
  unfold State.popWord
  split
  · exact ⟨fun h => by simp at h, fun h => absurd ‹_› h.1⟩
  · rw [Except.ok.injEq]
    exact ⟨fun h => ⟨‹_›, h.symm⟩, fun h => h.2.symm⟩

/-! ## CODE and XDATA -/

theorem State.codeRead_ok_iff (s : State) (n : Nat) (v : Byte) :
    s.codeRead n = .ok v ↔ n < s.codeSize ∧ v = s.code.read n := by
  unfold State.codeRead
  split
  · exact ⟨fun h => by simp at h, fun h => absurd ‹_› (Nat.not_le_of_lt h.1)⟩
  · rw [Except.ok.injEq]
    exact ⟨fun h => ⟨Nat.lt_of_not_le ‹_›, h.symm⟩, fun h => h.2.symm⟩

theorem State.codeRead_of_lt (s : State) (n : Nat) (h : n < s.codeSize) :
    s.codeRead n = .ok (s.code.read n) := (s.codeRead_ok_iff n _).2 ⟨h, rfl⟩

theorem State.codeRead_of_ge (s : State) (n : Nat) (h : s.codeSize ≤ n) :
    s.codeRead n = .error .memoryFault := by simp [State.codeRead, h]

theorem State.xdataRead_ok_iff (s : State) (n : Nat) (v : Byte) :
    s.xdataRead n = .ok v ↔ n < s.xdataSize ∧ v = s.xdata.read n := by
  unfold State.xdataRead
  split
  · exact ⟨fun h => by simp at h, fun h => absurd ‹_› (Nat.not_le_of_lt h.1)⟩
  · rw [Except.ok.injEq]
    exact ⟨fun h => ⟨Nat.lt_of_not_le ‹_›, h.symm⟩, fun h => h.2.symm⟩

theorem State.xdataWrite_ok_iff (s t : State) (n : Nat) (v : Byte) :
    s.xdataWrite n v = .ok t ↔ n < s.xdataSize ∧ t = s.setXdata n v := by
  unfold State.xdataWrite
  split
  · exact ⟨fun h => by simp at h, fun h => absurd ‹_› (Nat.not_le_of_lt h.1)⟩
  · rw [Except.ok.injEq]
    exact ⟨fun h => ⟨Nat.lt_of_not_le ‹_›, h.symm⟩, fun h => h.2.symm⟩

/-! ## Fetch -/

/-- The instruction that `fetch` gives, when it gives one. -/
theorem State.fetch_ok_iff (s : State) (i : Instr) :
    s.fetch = .ok i ↔ ∃ op b1 b2, s.codeRead s.pc.toNat = .ok op ∧
      s.fetchOperand (opcodeLength op) 1 = .ok b1 ∧ s.fetchOperand (opcodeLength op) 2 = .ok b2 ∧
      i = decodeBytes op b1 b2 := by
  unfold State.fetch
  cases h0 : s.codeRead s.pc.toNat with
  | error f => simp
  | ok op =>
    cases h1 : s.fetchOperand (opcodeLength op) 1 with
    | error f => simp [h1]
    | ok b1 =>
      cases h2 : s.fetchOperand (opcodeLength op) 2 with
      | error f => simp [h1, h2]
      | ok b2 => simp [h1, h2, eq_comm]

/-- The only fault of `fetch` is MemoryFault. -/
theorem State.fetch_error (s : State) (f : Fault) (h : s.fetch = .error f) : f = .memoryFault := by
  have hc : ∀ n, s.codeRead n = .error f → f = .memoryFault := fun n hn => by
    unfold State.codeRead at hn; split at hn <;> simp_all
  have ho : ∀ len k, s.fetchOperand len k = .error f → f = .memoryFault := fun len k hk => by
    unfold State.fetchOperand at hk; split at hk
    · exact hc _ hk
    · simp at hk
  unfold State.fetch at h
  cases h0 : s.codeRead s.pc.toNat with
  | error g => exact hc s.pc.toNat (by simpa [h0] using h)
  | ok op =>
    cases h1 : s.fetchOperand (opcodeLength op) 1 with
    | error g => exact ho (opcodeLength op) 1 (by simpa [h0, h1] using h)
    | ok b1 =>
      cases h2 : s.fetchOperand (opcodeLength op) 2 with
      | error g => exact ho (opcodeLength op) 2 (by simpa [h0, h1, h2] using h)
      | ok b2 => simp [h0, h1, h2] at h

/-- Everything `fetch` can do: MemoryFault at the opcode byte, MemoryFault at an operand byte, or the
instruction of the opcode byte at PC. -/
theorem State.fetch_spec (s : State) :
    (s.pc.toNat ≥ s.codeSize → s.fetch = .error .memoryFault) ∧
    (s.pc.toNat < s.codeSize →
      (s.pc.toNat + (opcodeLength (s.code.read s.pc.toNat) - 1) ≥ s.codeSize → s.fetch = .error .memoryFault) ∧
      (s.pc.toNat + (opcodeLength (s.code.read s.pc.toNat) - 1) < s.codeSize →
        ∃ b1 b2, s.fetch = .ok (decodeBytes (s.code.read s.pc.toNat) b1 b2))) := by
  refine ⟨fun h => by simp [State.fetch, State.codeRead_of_ge _ _ h], fun h => ?_⟩
  have h0 := s.codeRead_of_lt _ h
  have hb := opcodeLength_bounds (s.code.read s.pc.toNat)
  unfold State.fetch
  simp only [h0, State.fetchOperand]
  constructor
  · intro hh
    by_cases h1 : s.codeSize ≤ s.pc.toNat + 1
    · rw [if_pos (by omega), State.codeRead_of_ge _ _ h1]
    · rw [State.codeRead_of_lt _ (s.pc.toNat + 1) (by omega), if_pos (by omega), if_pos (by omega), State.codeRead_of_ge _ (s.pc.toNat + 2) (by omega)]
  · intro hh
    refine ⟨if 1 < opcodeLength (s.code.read s.pc.toNat) then s.code.read (s.pc.toNat + 1) else 0, if 2 < opcodeLength (s.code.read s.pc.toNat) then s.code.read (s.pc.toNat + 2) else 0, ?_⟩
    by_cases h1 : 1 < opcodeLength (s.code.read s.pc.toNat)
    · rw [if_pos h1, if_pos h1, State.codeRead_of_lt _ (s.pc.toNat + 1) (by omega)]
      by_cases h2 : 2 < opcodeLength (s.code.read s.pc.toNat)
      · rw [if_pos h2, if_pos h2, State.codeRead_of_lt _ (s.pc.toNat + 2) (by omega)]
      · rw [if_neg h2, if_neg h2]
    · rw [if_neg h1, if_neg h1, if_neg (by omega), if_neg (by omega)]

/-- What a step that answers a next state did. -/
theorem step_eq_next {s t : State} (h : step s = .next t) : ∃ i, s.fetch = .ok i ∧ exec i s = .next t :=
  orRaise_eq_next h

end Sys2Proof.Machine
end

