-- ==== Sys2Proof/Laws/Frame.lean ====
section
/-! SUPPORT. What each shared operation leaves unchanged (`Frame`), and that each keeps a legal state legal:
a meaning is a chain of operations, and its frame is the chain of theirs. -/
namespace Sys2Proof.Machine

variable {regs : List Reg} {flags : List Nat} {cells : List Byte} {xcells : List Nat} {s t u : State}

/-! ## Frames compose -/

theorem Frame.refl (s : State) : Frame regs flags cells xcells s s :=
  ⟨fun _ _ => rfl, fun _ _ _ => rfl, fun _ _ => rfl, fun _ _ => rfl, fun _ => rfl, rfl, rfl, rfl, rfl⟩

theorem Frame.trans (h : Frame regs flags cells xcells s t) (k : Frame regs flags cells xcells t u) :
    Frame regs flags cells xcells s u :=
  ⟨fun r hr => (k.1 r hr).trans (h.1 r hr), fun b hb hf => (k.2.1 b hb hf).trans (h.2.1 b hb hf),
    fun a ha => (k.2.2.1 a ha).trans (h.2.2.1 a ha), fun n hn => (k.2.2.2.1 n hn).trans (h.2.2.2.1 n hn),
    fun n => (k.2.2.2.2.1 n).trans (h.2.2.2.2.1 n), k.2.2.2.2.2.1.trans h.2.2.2.2.2.1,
    k.2.2.2.2.2.2.1.trans h.2.2.2.2.2.2.1, k.2.2.2.2.2.2.2.1.trans h.2.2.2.2.2.2.2.1,
    k.2.2.2.2.2.2.2.2.trans h.2.2.2.2.2.2.2.2⟩

/-- A state that differs from `s` in the registers of `regs`, in PC and in the port only. -/
theorem Frame.of_regs (hr : RegsKeptBut regs s t) (hp : t.psw = s.psw) (hi : t.iram = s.iram)
    (hx : t.xdata = s.xdata) (hc : t.code = s.code) (hcs : t.codeSize = s.codeSize)
    (hxs : t.xdataSize = s.xdataSize) (hin : t.inReg = s.inReg) (hout : t.outReg = s.outReg) :
    Frame regs flags cells xcells s t :=
  ⟨hr, fun k _ _ => by rw [hp], fun a _ => State.iramRead_of_iram hi a, fun n _ => by rw [hx],
    fun n => by rw [hc], hcs, hxs, hin, hout⟩

/-! ## The frame of each operation -/

theorem frame_jump (s : State) (w : Word) : Frame regs flags cells xcells s (s.jump w) :=
  Frame.of_regs (fun r _ => by cases r <;> rfl) rfl rfl rfl rfl rfl rfl rfl rfl

theorem frame_dRead (s : State) (d : Byte) : Frame regs flags cells xcells s (s.dRead d).2 :=
  Frame.of_regs (fun r _ => by cases r <;> simp [State.regValue])
    (by simp) (by simp) (by simp) (by simp) (by simp) (by simp) (by simp) (by simp)

theorem frame_portOut (s : State) (d v : Byte) : Frame regs flags cells xcells s (s.portOut d v) :=
  Frame.of_regs (fun r _ => by cases r <;> rfl) rfl rfl rfl rfl rfl rfl rfl rfl

theorem frame_iramWrite (s : State) (d v : Byte) (h : d ∈ cells) :
    Frame regs flags cells xcells s (s.iramWrite d v) :=
  ⟨fun r _ => by cases r <;> rfl, fun _ _ _ => rfl,
    fun a ha => s.iramRead_iramWrite_ne d a v fun e => ha (e ▸ h), fun _ _ => rfl, fun _ => rfl, rfl, rfl, rfl,
    rfl⟩

theorem frame_dWrite (s : State) (d v : Byte) (h : s.writesPort d = false → d ∈ cells) :
    Frame regs flags cells xcells s (s.dWrite d v) := by
  rcases s.dWrite_cases d v with ⟨_, hw⟩ | ⟨hp, hw⟩
  · rw [hw]; exact frame_portOut s d v
  · rw [hw]; exact frame_iramWrite s d v (h hp)

theorem frame_setPswBit (s : State) (k : Nat) (v : Bool) (hk : k < 8) (h : k ∈ flags) :
    Frame regs flags cells xcells s (s.setPswBit k v) :=
  ⟨fun r _ => by cases r <;> rfl,
    fun b _ hf => by rw [State.setPswBit_bit s k b v hk, if_neg fun (e : b = k) => hf (e ▸ h)],
    fun _ _ => rfl, fun _ _ => rfl, fun _ => rfl, rfl, rfl, rfl, rfl⟩

theorem frame_writeA (s : State) (v : Byte) (ha : Reg.a ∈ regs) (hp : 0 ∈ flags) :
    Frame regs flags cells xcells s (s.writeA v) :=
  ⟨fun r hr => by cases r <;> first | rfl | exact absurd ha hr,
    fun b _ hf => by rw [State.writeA_bit, if_neg fun (e : b = 0) => hf (e ▸ hp)],
    fun _ _ => rfl, fun _ _ => rfl, fun _ => rfl, rfl, rfl, rfl, rfl⟩

theorem frame_setB (s : State) (v : Byte) (h : Reg.b ∈ regs) : Frame regs flags cells xcells s (s.setB v) :=
  Frame.of_regs (fun r hr => by cases r <;> first | rfl | exact absurd h hr) rfl rfl rfl rfl rfl rfl rfl rfl

theorem frame_setSp (s : State) (v : Byte) (h : Reg.sp ∈ regs) :
    Frame regs flags cells xcells s (s.setSp v) :=
  Frame.of_regs (fun r hr => by cases r <;> first | rfl | exact absurd h hr) rfl rfl rfl rfl rfl rfl rfl rfl

theorem frame_setDptr (s : State) (v : Word) (h : Reg.dptr ∈ regs) :
    Frame regs flags cells xcells s (s.setDptr v) :=
  Frame.of_regs (fun r hr => by cases r <;> first | rfl | exact absurd h hr) rfl rfl rfl rfl rfl rfl rfl rfl

theorem frame_setXdata (s : State) (n : Nat) (v : Byte) (h : n ∈ xcells) :
    Frame regs flags cells xcells s (s.setXdata n v) :=
  ⟨fun r _ => by cases r <;> rfl, fun _ _ _ => rfl, fun _ _ => rfl,
    fun a ha => Memory.read_write_ne _ _ _ _ fun e => ha (e ▸ h), fun _ => rfl, rfl, rfl, rfl, rfl⟩

theorem frame_addCore (s : State) (x : Byte) (c : Bool) (ha : Reg.a ∈ regs) (h7 : 7 ∈ flags) (h6 : 6 ∈ flags)
    (h2 : 2 ∈ flags) (h0 : 0 ∈ flags) : Frame regs flags cells xcells s (s.addCore x c) :=
  (((frame_setPswBit s 7 _ (by decide) h7).trans (frame_setPswBit _ 6 _ (by decide) h6)).trans
    (frame_setPswBit _ 2 _ (by decide) h2)).trans (frame_writeA _ _ ha h0)

theorem frame_subCore (s : State) (x : Byte) (c : Bool) (ha : Reg.a ∈ regs) (h7 : 7 ∈ flags) (h6 : 6 ∈ flags)
    (h2 : 2 ∈ flags) (h0 : 0 ∈ flags) : Frame regs flags cells xcells s (s.subCore x c) :=
  (((frame_setPswBit s 7 _ (by decide) h7).trans (frame_setPswBit _ 6 _ (by decide) h6)).trans
    (frame_setPswBit _ 2 _ (by decide) h2)).trans (frame_writeA _ _ ha h0)

theorem frame_mulCore (s : State) (ha : Reg.a ∈ regs) (hb : Reg.b ∈ regs) (h7 : 7 ∈ flags) (h2 : 2 ∈ flags)
    (h0 : 0 ∈ flags) : Frame regs flags cells xcells s s.mulCore :=
  (((frame_setB s _ hb).trans (frame_setPswBit _ 7 _ (by decide) h7)).trans
    (frame_setPswBit _ 2 _ (by decide) h2)).trans (frame_writeA _ _ ha h0)

/-- DIV by zero writes CY and OV and nothing else. -/
theorem frame_divCore_zero (s : State) (hz : s.b = 0) (h7 : 7 ∈ flags) (h2 : 2 ∈ flags) :
    Frame regs flags cells xcells s s.divCore := by
  rw [State.divCore, if_pos hz]
  exact (frame_setPswBit s 7 _ (by decide) h7).trans (frame_setPswBit _ 2 _ (by decide) h2)

theorem frame_divCore (s : State) (ha : Reg.a ∈ regs) (hb : Reg.b ∈ regs) (h7 : 7 ∈ flags) (h2 : 2 ∈ flags)
    (h0 : 0 ∈ flags) : Frame regs flags cells xcells s s.divCore := by
  by_cases hz : s.b = 0
  · exact frame_divCore_zero s hz h7 h2
  · rw [State.divCore, if_neg hz]
    exact (((frame_setB s _ hb).trans (frame_setPswBit _ 7 _ (by decide) h7)).trans
      (frame_setPswBit _ 2 _ (by decide) h2)).trans (frame_writeA _ _ ha h0)

theorem frame_daCore (s : State) (ha : Reg.a ∈ regs) (h7 : 7 ∈ flags) (h0 : 0 ∈ flags) :
    Frame regs flags cells xcells s s.daCore :=
  (frame_setPswBit s 7 _ (by decide) h7).trans (frame_writeA _ _ ha h0)

theorem frame_rlcCore (s : State) (ha : Reg.a ∈ regs) (h7 : 7 ∈ flags) (h0 : 0 ∈ flags) :
    Frame regs flags cells xcells s s.rlcCore :=
  (frame_setPswBit s 7 _ (by decide) h7).trans (frame_writeA _ _ ha h0)

theorem frame_rrcCore (s : State) (ha : Reg.a ∈ regs) (h7 : 7 ∈ flags) (h0 : 0 ∈ flags) :
    Frame regs flags cells xcells s s.rrcCore :=
  (frame_setPswBit s 7 _ (by decide) h7).trans (frame_writeA _ _ ha h0)

theorem frame_compareJump (s : State) (x y e : Byte) (h7 : 7 ∈ flags) :
    Frame regs flags cells xcells s (s.compareJump x y e) := by
  rw [State.compareJump, State.branch_eq, State.setCy_eq]
  exact (frame_setPswBit s 7 _ (by decide) h7).trans (frame_jump _ _)

theorem frame_bitWrite (s : State) (b : Byte) (v : Bool) (h : s.writesPort (bitByte b) = false → bitByte b ∈ cells) :
    Frame regs flags cells xcells s (s.bitWrite b v) :=
  (frame_dRead s (bitByte b)).trans (frame_dWrite _ _ _ (by simpa using h))

/-! ## Legal states -/

/-- A state that differs from a legal one in IRAM and XDATA only as far as legality goes. -/
theorem State.Legal.of_memories (h : s.Legal) (hi : t.iram.wf ∧ t.iram.below Config.iramSize)
    (hx : t.xdata.wf ∧ t.xdata.below s.xdataSize) (hc : t.code = s.code) (hcs : t.codeSize = s.codeSize)
    (hxs : t.xdataSize = s.xdataSize) (hin : t.inReg = s.inReg) (hout : t.outReg = s.outReg) : t.Legal := by
  obtain ⟨_, h2, h3, h4, h5⟩ := h
  unfold State.Legal
  rw [hc, hcs, hxs, hin, hout]
  exact ⟨hi, h2, ⟨hx.1, hx.2, h3.2.2⟩, h4, h5⟩

/-- A state that differs from a legal one in no memory, size or registry. -/
theorem State.Legal.of_same (h : s.Legal) (hi : t.iram = s.iram) (hx : t.xdata = s.xdata)
    (hc : t.code = s.code) (hcs : t.codeSize = s.codeSize) (hxs : t.xdataSize = s.xdataSize)
    (hin : t.inReg = s.inReg) (hout : t.outReg = s.outReg) : t.Legal :=
  h.of_memories (by rw [hi]; exact h.1) (by rw [hx]; exact ⟨h.2.2.1.1, h.2.2.1.2.1⟩) hc hcs hxs hin hout

theorem State.Legal.iramWf (h : s.Legal) : s.iram.wf := h.1.1

theorem State.Legal.iramWrite (h : s.Legal) (d v : Byte) : (s.iramWrite d v).Legal :=
  h.of_memories ⟨Memory.wf_write _ _ _ h.1.1, Memory.below_write _ _ _ _ h.1.2 d.isLt⟩
    ⟨h.2.2.1.1, h.2.2.1.2.1⟩ rfl rfl rfl rfl rfl

theorem State.Legal.setXdata (h : s.Legal) (n : Nat) (v : Byte) (hn : n < s.xdataSize) :
    (s.setXdata n v).Legal :=
  h.of_memories h.1 ⟨Memory.wf_write _ _ _ h.2.2.1.1, Memory.below_write _ _ _ _ h.2.2.1.2.1 hn⟩
    rfl rfl rfl rfl rfl

theorem State.Legal.dRead (h : s.Legal) (d : Byte) : (s.dRead d).2.Legal :=
  h.of_same (by simp) (by simp) (by simp) (by simp) (by simp) (by simp) (by simp)

theorem State.Legal.dWrite (h : s.Legal) (d v : Byte) : (s.dWrite d v).Legal := by
  rcases s.dWrite_cases d v with ⟨_, hw⟩ | ⟨_, hw⟩
  · rw [hw]; exact h.of_same rfl rfl rfl rfl rfl rfl rfl
  · rw [hw]; exact h.iramWrite d v

theorem State.Legal.jump (h : s.Legal) (w : Word) : (s.jump w).Legal := h.of_same rfl rfl rfl rfl rfl rfl rfl

theorem State.Legal.setPswBit (h : s.Legal) (k : Nat) (v : Bool) : (s.setPswBit k v).Legal :=
  h.of_same rfl rfl rfl rfl rfl rfl rfl

theorem State.Legal.writeA (h : s.Legal) (v : Byte) : (s.writeA v).Legal :=
  h.of_same rfl rfl rfl rfl rfl rfl rfl

end Sys2Proof.Machine
end

