-- ==== Sys2Proof/Laws/Exec.lean ====
section
/-! SUPPORT. Said once: what an instruction can do. Every meaning is a chain of ten primitive updates; a
property each of them keeps is kept by every instruction and by every step. -/
namespace Sys2Proof.Machine

/-- `t` is reached from `s` by primitive updates, each under the condition the meanings use it under. -/
inductive Chain (s : State) : State → Prop where
  | refl : Chain s s
  | jump {t} (w : Word) : Chain s t → Chain s (t.jump w)
  | writeA {t} (v : Byte) : Chain s t → Chain s (t.writeA v)
  | setPswBit {t} (k : Nat) (v : Bool) (hk : k = 7 ∨ k = 6 ∨ k = 2) : Chain s t → Chain s (t.setPswBit k v)
  | iramWrite {t} (d v : Byte) : Chain s t → Chain s (t.iramWrite d v)
  | portIn {t} (d : Byte) (h : t.readsPort d = true) : Chain s t → Chain s (t.portIn d).2
  | portOut {t} (d v : Byte) (h : t.writesPort d = true) : Chain s t → Chain s (t.portOut d v)
  | setB {t} (v : Byte) : Chain s t → Chain s (t.setB v)
  | setSp {t} (v : Byte) : Chain s t → Chain s (t.setSp v)
  | setDptr {t} (v : Word) : Chain s t → Chain s (t.setDptr v)
  | setXdata {t} (n : Nat) (v : Byte) (h : n < t.xdataSize) : Chain s t → Chain s (t.setXdata n v)

/-- A property every primitive update keeps is kept by a chain of them. -/
theorem Chain.keeps {P : State → Prop} {s t : State} (h : Chain s t)
    (jump : ∀ u w, P u → P (u.jump w)) (writeA : ∀ u v, P u → P (u.writeA v))
    (setPswBit : ∀ u k v, (k = 7 ∨ k = 6 ∨ k = 2) → P u → P (u.setPswBit k v))
    (iramWrite : ∀ u d v, P u → P (u.iramWrite d v))
    (portIn : ∀ u d, u.readsPort d = true → P u → P (u.portIn d).2)
    (portOut : ∀ u d v, u.writesPort d = true → P u → P (u.portOut d v))
    (setB : ∀ (u : State) v, P u → P (u.setB v)) (setSp : ∀ (u : State) v, P u → P (u.setSp v))
    (setDptr : ∀ (u : State) v, P u → P (u.setDptr v))
    (setXdata : ∀ (u : State) n v, n < u.xdataSize → P u → P (u.setXdata n v))
    (hs : P s) : P t := by
  induction h with
  | refl => exact hs
  | jump w _ ih => exact jump _ w ih
  | writeA v _ ih => exact writeA _ v ih
  | setPswBit k v hk _ ih => exact setPswBit _ k v hk ih
  | iramWrite d v _ ih => exact iramWrite _ d v ih
  | portIn d h _ ih => exact portIn _ d h ih
  | portOut d v h _ ih => exact portOut _ d v h ih
  | setB v _ ih => exact setB _ v ih
  | setSp v _ ih => exact setSp _ v ih
  | setDptr v _ ih => exact setDptr _ v ih
  | setXdata n v h _ ih => exact setXdata _ n v h ih

/-! ## The shared operations as chains -/

namespace Chain
variable {s t : State}

/-- The empty chain. -/
theorem of (s : State) : Chain s s := .refl

theorem advance (c : Chain s t) (len : Nat) : Chain s (t.advance len) := c.jump _

theorem branch (c : Chain s t) (taken : Bool) (w : Word) (len : Nat) : Chain s (t.branch taken w len) := by
  rw [State.branch_eq]; exact c.jump _

theorem regWrite (c : Chain s t) (n : RegIndex) (v : Byte) : Chain s (t.regWrite n v) := c.iramWrite _ _
theorem indWrite (c : Chain s t) (i : PtrIndex) (v : Byte) : Chain s (t.indWrite i v) := c.iramWrite _ _
theorem setCy (c : Chain s t) (v : Bool) : Chain s (t.setCy v) := c.setPswBit 7 v (by decide)
theorem setAc (c : Chain s t) (v : Bool) : Chain s (t.setAc v) := c.setPswBit 6 v (by decide)
theorem setOv (c : Chain s t) (v : Bool) : Chain s (t.setOv v) := c.setPswBit 2 v (by decide)

theorem dRead (c : Chain s t) (d : Byte) : Chain s (t.dRead d).2 := by
  rcases t.dRead_cases d with ⟨hp, h⟩ | ⟨_, h⟩
  · rw [h]; exact c.portIn d hp
  · rw [h]; exact c

theorem dWrite (c : Chain s t) (d v : Byte) : Chain s (t.dWrite d v) := by
  rcases t.dWrite_cases d v with ⟨hp, h⟩ | ⟨_, h⟩
  · rw [h]; exact c.portOut d v hp
  · rw [h]; exact c.iramWrite d v

theorem bitRead (c : Chain s t) (b : Byte) : Chain s (t.bitRead b).2 := c.dRead _
theorem bitWrite (c : Chain s t) (b : Byte) (v : Bool) : Chain s (t.bitWrite b v) := (c.dRead _).dWrite _ _

theorem addCore (c : Chain s t) (x : Byte) (k : Bool) : Chain s (t.addCore x k) :=
  (((c.setCy _).setAc _).setOv _).writeA _
theorem subCore (c : Chain s t) (x : Byte) (k : Bool) : Chain s (t.subCore x k) :=
  (((c.setCy _).setAc _).setOv _).writeA _
theorem mulCore (c : Chain s t) : Chain s t.mulCore := (((c.setB _).setCy _).setOv _).writeA _
theorem daCore (c : Chain s t) : Chain s t.daCore := (c.setCy _).writeA _
theorem rlcCore (c : Chain s t) : Chain s t.rlcCore := (c.setCy _).writeA _
theorem rrcCore (c : Chain s t) : Chain s t.rrcCore := (c.setCy _).writeA _

theorem divCore (c : Chain s t) : Chain s t.divCore := by
  rw [State.divCore]; split
  · exact (c.setCy _).setOv _
  · exact (((c.setB _).setCy _).setOv _).writeA _

theorem compareJump (c : Chain s t) (x y e : Byte) : Chain s (t.compareJump x y e) := (c.setCy _).branch _ _ _

theorem pushByte {u} {v : Byte} (c : Chain s t) (h : t.pushByte v = .ok u) : Chain s u := by
  rw [((t.pushByte_ok_iff u v).1 h).2]; exact (c.iramWrite _ _).setSp _

theorem popByte {r} (c : Chain s t) (h : t.popByte = .ok r) : Chain s r.2 := by
  rw [((t.popByte_ok_iff r).1 h).2]; exact c.setSp _

theorem pushWord {u} {w : Word} (c : Chain s t) (h : t.pushWord w = .ok u) : Chain s u := by
  rw [((t.pushWord_ok_iff u w).1 h).2]; exact ((c.iramWrite _ _).iramWrite _ _).setSp _

theorem popWord {r} (c : Chain s t) (h : t.popWord = .ok r) : Chain s r.2 := by
  rw [((t.popWord_ok_iff r).1 h).2]; exact c.setSp _

theorem xdataWrite {u} {n : Nat} {v : Byte} (c : Chain s t) (h : t.xdataWrite n v = .ok u) : Chain s u := by
  obtain ⟨hn, hu⟩ := (t.xdataWrite_ok_iff u n v).1 h
  rw [hu]; exact c.setXdata n v hn

end Chain

/-! ## Every meaning is a chain -/

/-- Whatever next state an outcome gives is reached from `s` by a chain. -/
def ChainNext (s : State) (r : Result) : Prop := ∀ t, r = .next t → Chain s t

theorem ChainNext.next {s t : State} (c : Chain s t) : ChainNext s (.next t) := fun u h => by
  cases h; exact c

theorem ChainNext.orRaise {α : Type} {s : State} {r : Except Fault α} {k : α → Result}
    (h : ∀ x, r = .ok x → ChainNext s (k x)) : ChainNext s (orRaise r k) := fun t ht => by
  obtain ⟨x, hx, hk⟩ := orRaise_eq_next ht
  exact h x hx t hk

theorem execAddARn_chain (n : RegIndex) (s : State) : ChainNext s (execAddARn n s) :=
  .next (((Chain.of s).addCore _ _).advance _)
theorem execAddADirect_chain (d : Byte) (s : State) : ChainNext s (execAddADirect d s) :=
  .next ((((Chain.of s).dRead _).addCore _ _).advance _)
theorem execAddAInd_chain (i : PtrIndex) (s : State) : ChainNext s (execAddAInd i s) :=
  .next (((Chain.of s).addCore _ _).advance _)
theorem execAddAImm_chain (k : Byte) (s : State) : ChainNext s (execAddAImm k s) :=
  .next (((Chain.of s).addCore _ _).advance _)
theorem execAddcARn_chain (n : RegIndex) (s : State) : ChainNext s (execAddcARn n s) :=
  .next (((Chain.of s).addCore _ _).advance _)
theorem execAddcADirect_chain (d : Byte) (s : State) : ChainNext s (execAddcADirect d s) :=
  .next ((((Chain.of s).dRead _).addCore _ _).advance _)
theorem execAddcAInd_chain (i : PtrIndex) (s : State) : ChainNext s (execAddcAInd i s) :=
  .next (((Chain.of s).addCore _ _).advance _)
theorem execAddcAImm_chain (k : Byte) (s : State) : ChainNext s (execAddcAImm k s) :=
  .next (((Chain.of s).addCore _ _).advance _)
theorem execSubbARn_chain (n : RegIndex) (s : State) : ChainNext s (execSubbARn n s) :=
  .next (((Chain.of s).subCore _ _).advance _)
theorem execSubbADirect_chain (d : Byte) (s : State) : ChainNext s (execSubbADirect d s) :=
  .next ((((Chain.of s).dRead _).subCore _ _).advance _)
theorem execSubbAInd_chain (i : PtrIndex) (s : State) : ChainNext s (execSubbAInd i s) :=
  .next (((Chain.of s).subCore _ _).advance _)
theorem execSubbAImm_chain (k : Byte) (s : State) : ChainNext s (execSubbAImm k s) :=
  .next (((Chain.of s).subCore _ _).advance _)
theorem execIncA_chain (s : State) : ChainNext s (execIncA s) := .next (((Chain.of s).writeA _).advance _)
theorem execIncRn_chain (n : RegIndex) (s : State) : ChainNext s (execIncRn n s) :=
  .next (((Chain.of s).regWrite _ _).advance _)
theorem execIncDirect_chain (d : Byte) (s : State) : ChainNext s (execIncDirect d s) :=
  .next ((((Chain.of s).dRead _).dWrite _ _).advance _)
theorem execIncInd_chain (i : PtrIndex) (s : State) : ChainNext s (execIncInd i s) :=
  .next (((Chain.of s).indWrite _ _).advance _)
theorem execIncDptr_chain (s : State) : ChainNext s (execIncDptr s) :=
  .next (((Chain.of s).setDptr _).advance _)
theorem execDecA_chain (s : State) : ChainNext s (execDecA s) := .next (((Chain.of s).writeA _).advance _)
theorem execDecRn_chain (n : RegIndex) (s : State) : ChainNext s (execDecRn n s) :=
  .next (((Chain.of s).regWrite _ _).advance _)
theorem execDecDirect_chain (d : Byte) (s : State) : ChainNext s (execDecDirect d s) :=
  .next ((((Chain.of s).dRead _).dWrite _ _).advance _)
theorem execDecInd_chain (i : PtrIndex) (s : State) : ChainNext s (execDecInd i s) :=
  .next (((Chain.of s).indWrite _ _).advance _)
theorem execMulAB_chain (s : State) : ChainNext s (execMulAB s) := .next (((Chain.of s).mulCore).advance _)
theorem execDivAB_chain (s : State) : ChainNext s (execDivAB s) := .next (((Chain.of s).divCore).advance _)
theorem execDaA_chain (s : State) : ChainNext s (execDaA s) := .next (((Chain.of s).daCore).advance _)
theorem execAnlARn_chain (n : RegIndex) (s : State) : ChainNext s (execAnlARn n s) :=
  .next (((Chain.of s).writeA _).advance _)
theorem execAnlADirect_chain (d : Byte) (s : State) : ChainNext s (execAnlADirect d s) :=
  .next ((((Chain.of s).dRead _).writeA _).advance _)
theorem execAnlAInd_chain (i : PtrIndex) (s : State) : ChainNext s (execAnlAInd i s) :=
  .next (((Chain.of s).writeA _).advance _)
theorem execAnlAImm_chain (k : Byte) (s : State) : ChainNext s (execAnlAImm k s) :=
  .next (((Chain.of s).writeA _).advance _)
theorem execAnlDirectA_chain (d : Byte) (s : State) : ChainNext s (execAnlDirectA d s) :=
  .next ((((Chain.of s).dRead _).dWrite _ _).advance _)
theorem execAnlDirectImm_chain (d k : Byte) (s : State) : ChainNext s (execAnlDirectImm d k s) :=
  .next ((((Chain.of s).dRead _).dWrite _ _).advance _)
theorem execOrlARn_chain (n : RegIndex) (s : State) : ChainNext s (execOrlARn n s) :=
  .next (((Chain.of s).writeA _).advance _)
theorem execOrlADirect_chain (d : Byte) (s : State) : ChainNext s (execOrlADirect d s) :=
  .next ((((Chain.of s).dRead _).writeA _).advance _)
theorem execOrlAInd_chain (i : PtrIndex) (s : State) : ChainNext s (execOrlAInd i s) :=
  .next (((Chain.of s).writeA _).advance _)
theorem execOrlAImm_chain (k : Byte) (s : State) : ChainNext s (execOrlAImm k s) :=
  .next (((Chain.of s).writeA _).advance _)
theorem execOrlDirectA_chain (d : Byte) (s : State) : ChainNext s (execOrlDirectA d s) :=
  .next ((((Chain.of s).dRead _).dWrite _ _).advance _)
theorem execOrlDirectImm_chain (d k : Byte) (s : State) : ChainNext s (execOrlDirectImm d k s) :=
  .next ((((Chain.of s).dRead _).dWrite _ _).advance _)
theorem execXrlARn_chain (n : RegIndex) (s : State) : ChainNext s (execXrlARn n s) :=
  .next (((Chain.of s).writeA _).advance _)
theorem execXrlADirect_chain (d : Byte) (s : State) : ChainNext s (execXrlADirect d s) :=
  .next ((((Chain.of s).dRead _).writeA _).advance _)
theorem execXrlAInd_chain (i : PtrIndex) (s : State) : ChainNext s (execXrlAInd i s) :=
  .next (((Chain.of s).writeA _).advance _)
theorem execXrlAImm_chain (k : Byte) (s : State) : ChainNext s (execXrlAImm k s) :=
  .next (((Chain.of s).writeA _).advance _)
theorem execXrlDirectA_chain (d : Byte) (s : State) : ChainNext s (execXrlDirectA d s) :=
  .next ((((Chain.of s).dRead _).dWrite _ _).advance _)
theorem execXrlDirectImm_chain (d k : Byte) (s : State) : ChainNext s (execXrlDirectImm d k s) :=
  .next ((((Chain.of s).dRead _).dWrite _ _).advance _)
theorem execClrA_chain (s : State) : ChainNext s (execClrA s) := .next (((Chain.of s).writeA _).advance _)
theorem execCplA_chain (s : State) : ChainNext s (execCplA s) := .next (((Chain.of s).writeA _).advance _)
theorem execRlA_chain (s : State) : ChainNext s (execRlA s) := .next (((Chain.of s).writeA _).advance _)
theorem execRlcA_chain (s : State) : ChainNext s (execRlcA s) := .next (((Chain.of s).rlcCore).advance _)
theorem execRrA_chain (s : State) : ChainNext s (execRrA s) := .next (((Chain.of s).writeA _).advance _)
theorem execRrcA_chain (s : State) : ChainNext s (execRrcA s) := .next (((Chain.of s).rrcCore).advance _)
theorem execSwapA_chain (s : State) : ChainNext s (execSwapA s) := .next (((Chain.of s).writeA _).advance _)
theorem execMovARn_chain (n : RegIndex) (s : State) : ChainNext s (execMovARn n s) :=
  .next (((Chain.of s).writeA _).advance _)
theorem execMovADirect_chain (d : Byte) (s : State) : ChainNext s (execMovADirect d s) :=
  .next ((((Chain.of s).dRead _).writeA _).advance _)
theorem execMovAInd_chain (i : PtrIndex) (s : State) : ChainNext s (execMovAInd i s) :=
  .next (((Chain.of s).writeA _).advance _)
theorem execMovAImm_chain (k : Byte) (s : State) : ChainNext s (execMovAImm k s) :=
  .next (((Chain.of s).writeA _).advance _)
theorem execMovRnA_chain (n : RegIndex) (s : State) : ChainNext s (execMovRnA n s) :=
  .next (((Chain.of s).regWrite _ _).advance _)
theorem execMovRnDirect_chain (n : RegIndex) (d : Byte) (s : State) : ChainNext s (execMovRnDirect n d s) :=
  .next ((((Chain.of s).dRead _).regWrite _ _).advance _)
theorem execMovRnImm_chain (n : RegIndex) (k : Byte) (s : State) : ChainNext s (execMovRnImm n k s) :=
  .next (((Chain.of s).regWrite _ _).advance _)
theorem execMovDirectA_chain (d : Byte) (s : State) : ChainNext s (execMovDirectA d s) :=
  .next (((Chain.of s).dWrite _ _).advance _)
theorem execMovDirectRn_chain (n : RegIndex) (d : Byte) (s : State) : ChainNext s (execMovDirectRn n d s) :=
  .next (((Chain.of s).dWrite _ _).advance _)
theorem execMovDirectDirect_chain (src dst : Byte) (s : State) : ChainNext s (execMovDirectDirect src dst s) :=
  .next ((((Chain.of s).dRead _).dWrite _ _).advance _)
theorem execMovDirectInd_chain (i : PtrIndex) (d : Byte) (s : State) : ChainNext s (execMovDirectInd i d s) :=
  .next (((Chain.of s).dWrite _ _).advance _)
theorem execMovDirectImm_chain (d k : Byte) (s : State) : ChainNext s (execMovDirectImm d k s) :=
  .next (((Chain.of s).dWrite _ _).advance _)
theorem execMovIndA_chain (i : PtrIndex) (s : State) : ChainNext s (execMovIndA i s) :=
  .next (((Chain.of s).indWrite _ _).advance _)
theorem execMovIndDirect_chain (i : PtrIndex) (d : Byte) (s : State) : ChainNext s (execMovIndDirect i d s) :=
  .next ((((Chain.of s).dRead _).indWrite _ _).advance _)
theorem execMovIndImm_chain (i : PtrIndex) (k : Byte) (s : State) : ChainNext s (execMovIndImm i k s) :=
  .next (((Chain.of s).indWrite _ _).advance _)
theorem execMovDptrImm_chain (k : Word) (s : State) : ChainNext s (execMovDptrImm k s) :=
  .next (((Chain.of s).setDptr _).advance _)
theorem execMovcADptr_chain (s : State) : ChainNext s (execMovcADptr s) :=
  .orRaise fun _ _ => .next (((Chain.of s).writeA _).advance _)
theorem execMovcAPc_chain (s : State) : ChainNext s (execMovcAPc s) :=
  .orRaise fun _ _ => .next (((Chain.of s).writeA _).advance _)
theorem execMovxAInd_chain (i : PtrIndex) (s : State) : ChainNext s (execMovxAInd i s) :=
  .orRaise fun _ _ => .next (((Chain.of s).writeA _).advance _)
theorem execMovxADptr_chain (s : State) : ChainNext s (execMovxADptr s) :=
  .orRaise fun _ _ => .next (((Chain.of s).writeA _).advance _)
theorem execMovxIndA_chain (i : PtrIndex) (s : State) : ChainNext s (execMovxIndA i s) :=
  .orRaise fun _ h => .next (((Chain.of s).xdataWrite h).advance _)
theorem execMovxDptrA_chain (s : State) : ChainNext s (execMovxDptrA s) :=
  .orRaise fun _ h => .next (((Chain.of s).xdataWrite h).advance _)
theorem execPush_chain (d : Byte) (s : State) : ChainNext s (execPush d s) := by
  rw [execPush]
  split
  · exact fun _ h => absurd h (raise_ne_next _ _)
  · exact .orRaise fun t h => .next ((((Chain.of s).dRead d).pushByte h).advance _)
theorem execPop_chain (d : Byte) (s : State) : ChainNext s (execPop d s) :=
  .orRaise fun _ h => .next ((((Chain.of s).popByte h).dWrite _ _).advance _)
theorem execXchARn_chain (n : RegIndex) (s : State) : ChainNext s (execXchARn n s) :=
  .next ((((Chain.of s).regWrite _ _).writeA _).advance _)
theorem execXchADirect_chain (d : Byte) (s : State) : ChainNext s (execXchADirect d s) :=
  .next (((((Chain.of s).dRead _).dWrite _ _).writeA _).advance _)
theorem execXchAInd_chain (i : PtrIndex) (s : State) : ChainNext s (execXchAInd i s) :=
  .next ((((Chain.of s).indWrite _ _).writeA _).advance _)
theorem execXchdAInd_chain (i : PtrIndex) (s : State) : ChainNext s (execXchdAInd i s) :=
  .next ((((Chain.of s).indWrite _ _).writeA _).advance _)
theorem execClrC_chain (s : State) : ChainNext s (execClrC s) := .next (((Chain.of s).setCy _).advance _)
theorem execSetbC_chain (s : State) : ChainNext s (execSetbC s) := .next (((Chain.of s).setCy _).advance _)
theorem execCplC_chain (s : State) : ChainNext s (execCplC s) := .next (((Chain.of s).setCy _).advance _)
theorem execClrBit_chain (b : Byte) (s : State) : ChainNext s (execClrBit b s) :=
  .next (((Chain.of s).bitWrite _ _).advance _)
theorem execSetbBit_chain (b : Byte) (s : State) : ChainNext s (execSetbBit b s) :=
  .next (((Chain.of s).bitWrite _ _).advance _)
theorem execCplBit_chain (b : Byte) (s : State) : ChainNext s (execCplBit b s) :=
  .next ((((Chain.of s).dRead _).dWrite _ _).advance _)
theorem execAnlCBit_chain (b : Byte) (s : State) : ChainNext s (execAnlCBit b s) :=
  .next ((((Chain.of s).bitRead _).setCy _).advance _)
theorem execAnlCNotBit_chain (b : Byte) (s : State) : ChainNext s (execAnlCNotBit b s) :=
  .next ((((Chain.of s).bitRead _).setCy _).advance _)
theorem execOrlCBit_chain (b : Byte) (s : State) : ChainNext s (execOrlCBit b s) :=
  .next ((((Chain.of s).bitRead _).setCy _).advance _)
theorem execOrlCNotBit_chain (b : Byte) (s : State) : ChainNext s (execOrlCNotBit b s) :=
  .next ((((Chain.of s).bitRead _).setCy _).advance _)
theorem execMovCBit_chain (b : Byte) (s : State) : ChainNext s (execMovCBit b s) :=
  .next ((((Chain.of s).bitRead _).setCy _).advance _)
theorem execMovBitC_chain (b : Byte) (s : State) : ChainNext s (execMovBitC b s) :=
  .next (((Chain.of s).bitWrite _ _).advance _)
theorem execJc_chain (e : Byte) (s : State) : ChainNext s (execJc e s) := .next ((Chain.of s).branch _ _ _)
theorem execJnc_chain (e : Byte) (s : State) : ChainNext s (execJnc e s) := .next ((Chain.of s).branch _ _ _)
theorem execJb_chain (b e : Byte) (s : State) : ChainNext s (execJb b e s) :=
  .next (((Chain.of s).bitRead _).branch _ _ _)
theorem execJnb_chain (b e : Byte) (s : State) : ChainNext s (execJnb b e s) :=
  .next (((Chain.of s).bitRead _).branch _ _ _)
theorem execJbc_chain (b e : Byte) (s : State) : ChainNext s (execJbc b e s) := by
  simp only [execJbc]
  split
  · exact .next ((((Chain.of s).dRead _).dWrite _ _).jump _)
  · exact .next (((Chain.of s).dRead _).advance _)
theorem execAcall_chain (a : PageOffset) (s : State) : ChainNext s (execAcall a s) :=
  .orRaise fun _ h => .next (((Chain.of s).pushWord h).jump _)
theorem execLcall_chain (a : Word) (s : State) : ChainNext s (execLcall a s) :=
  .orRaise fun _ h => .next (((Chain.of s).pushWord h).jump _)
theorem execRet_chain (s : State) : ChainNext s (execRet s) :=
  .orRaise fun _ h => .next (((Chain.of s).popWord h).jump _)
theorem execReti_chain (s : State) : ChainNext s (execReti s) :=
  .orRaise fun _ h => .next (((Chain.of s).popWord h).jump _)
theorem execAjmp_chain (a : PageOffset) (s : State) : ChainNext s (execAjmp a s) := .next ((Chain.of s).jump _)
theorem execLjmp_chain (a : Word) (s : State) : ChainNext s (execLjmp a s) := .next ((Chain.of s).jump _)
theorem execSjmp_chain (e : Byte) (s : State) : ChainNext s (execSjmp e s) := .next ((Chain.of s).jump _)
theorem execJmpADptr_chain (s : State) : ChainNext s (execJmpADptr s) := .next ((Chain.of s).jump _)
theorem execJz_chain (e : Byte) (s : State) : ChainNext s (execJz e s) := .next ((Chain.of s).branch _ _ _)
theorem execJnz_chain (e : Byte) (s : State) : ChainNext s (execJnz e s) := .next ((Chain.of s).branch _ _ _)
theorem execCjneADirect_chain (d e : Byte) (s : State) : ChainNext s (execCjneADirect d e s) :=
  .next (((Chain.of s).dRead _).compareJump _ _ _)
theorem execCjneAImm_chain (k e : Byte) (s : State) : ChainNext s (execCjneAImm k e s) :=
  .next ((Chain.of s).compareJump _ _ _)
theorem execCjneRnImm_chain (n : RegIndex) (k e : Byte) (s : State) : ChainNext s (execCjneRnImm n k e s) :=
  .next ((Chain.of s).compareJump _ _ _)
theorem execCjneIndImm_chain (i : PtrIndex) (k e : Byte) (s : State) : ChainNext s (execCjneIndImm i k e s) :=
  .next ((Chain.of s).compareJump _ _ _)
theorem execDjnzRn_chain (n : RegIndex) (e : Byte) (s : State) : ChainNext s (execDjnzRn n e s) :=
  .next (((Chain.of s).regWrite _ _).branch _ _ _)
theorem execDjnzDirect_chain (d e : Byte) (s : State) : ChainNext s (execDjnzDirect d e s) :=
  .next ((((Chain.of s).dRead _).dWrite _ _).branch _ _ _)
theorem execNop_chain (s : State) : ChainNext s (execNop s) := .next ((Chain.of s).advance _)
theorem execReserved_chain (s : State) : ChainNext s (execReserved s) := fun _ h => absurd h (raise_ne_next _ _)

/-! ## The checked instructions: their check, then one next state -/

theorem execMovcADptr_eq (s : State) : execMovcADptr s =
    if s.codeSize ≤ s.aPlusDptr.toNat then .fault .memoryFault
    else .next ((s.writeA (s.code.read s.aPlusDptr.toNat)).advance 1) := by
  unfold execMovcADptr State.codeRead; split <;> rfl

theorem execMovcAPc_eq (s : State) : execMovcAPc s =
    if s.codeSize ≤ s.aPlusPc.toNat then .fault .memoryFault
    else .next ((s.writeA (s.code.read s.aPlusPc.toNat)).advance 1) := by
  unfold execMovcAPc State.codeRead; split <;> rfl

theorem execMovxAInd_eq (i : PtrIndex) (s : State) : execMovxAInd i s =
    if s.xdataSize ≤ (s.ptr i).toNat then .fault .memoryFault
    else .next ((s.writeA (s.xdata.read (s.ptr i).toNat)).advance 1) := by
  unfold execMovxAInd State.xdataRead; split <;> rfl

theorem execMovxADptr_eq (s : State) : execMovxADptr s =
    if s.xdataSize ≤ s.dptr.toNat then .fault .memoryFault
    else .next ((s.writeA (s.xdata.read s.dptr.toNat)).advance 1) := by
  unfold execMovxADptr State.xdataRead; split <;> rfl

theorem execMovxIndA_eq (i : PtrIndex) (s : State) : execMovxIndA i s =
    if s.xdataSize ≤ (s.ptr i).toNat then .fault .memoryFault
    else .next ((s.setXdata (s.ptr i).toNat s.a).advance 1) := by
  unfold execMovxIndA State.xdataWrite; split <;> rfl

theorem execMovxDptrA_eq (s : State) : execMovxDptrA s =
    if s.xdataSize ≤ s.dptr.toNat then .fault .memoryFault
    else .next ((s.setXdata s.dptr.toNat s.a).advance 1) := by
  unfold execMovxDptrA State.xdataWrite; split <;> rfl

theorem execPush_eq (d : Byte) (s : State) : execPush d s =
    if s.sp = 0xFF then .fault .stackOverflow
    else .next ((((s.dRead d).2.iramWrite (s.sp + 1) (s.dRead d).1).setSp (s.sp + 1)).advance 2) := by
  unfold execPush
  split
  · rfl
  · rw [(State.pushByte_ok_iff _ _ _).2 ⟨by rwa [State.dRead_sp], rfl⟩, State.dRead_sp]; rfl

theorem execPop_eq (d : Byte) (s : State) : execPop d s =
    if s.sp = 0x00 then .fault .stackUnderflow
    else .next (((s.setSp (s.sp - 1)).dWrite d (s.iramRead s.sp)).advance 2) := by
  unfold execPop State.popByte; split <;> rfl

theorem execAcall_eq (a : PageOffset) (s : State) : execAcall a s =
    if 0xFE ≤ s.sp then .fault .stackOverflow
    else .next ((((s.iramWrite (s.sp + 1) ((s.pcNext 2).extractLsb' 0 8)).iramWrite (s.sp + 2)
      ((s.pcNext 2).extractLsb' 8 8)).setSp (s.sp + 2)).jump (s.pageTarget a)) := by
  unfold execAcall State.pushWord; split <;> rfl

theorem execLcall_eq (a : Word) (s : State) : execLcall a s =
    if 0xFE ≤ s.sp then .fault .stackOverflow
    else .next ((((s.iramWrite (s.sp + 1) ((s.pcNext 3).extractLsb' 0 8)).iramWrite (s.sp + 2)
      ((s.pcNext 3).extractLsb' 8 8)).setSp (s.sp + 2)).jump a) := by
  unfold execLcall State.pushWord; split <;> rfl

theorem execRet_eq (s : State) : execRet s =
    if s.sp ≤ 0x01 then .fault .stackUnderflow
    else .next ((s.setSp (s.sp - 2)).jump (s.iramRead s.sp ++ s.iramRead (s.sp - 1))) := by
  unfold execRet State.popWord; split <;> rfl

theorem execReti_eq (s : State) : execReti s =
    if s.sp ≤ 0x01 then .fault .stackUnderflow
    else .next ((s.setSp (s.sp - 2)).jump (s.iramRead s.sp ++ s.iramRead (s.sp - 1))) := by
  unfold execReti State.popWord; split <;> rfl

/-- Whatever instruction is executed, the next state is reached by a chain of primitive updates. -/
theorem exec_chain (i : Instr) (s : State) : ChainNext s (exec i s) := by
  cases i with
  | addARn n => exact execAddARn_chain n s
  | addADirect d => exact execAddADirect_chain d s
  | addAInd i => exact execAddAInd_chain i s
  | addAImm k => exact execAddAImm_chain k s
  | addcARn n => exact execAddcARn_chain n s
  | addcADirect d => exact execAddcADirect_chain d s
  | addcAInd i => exact execAddcAInd_chain i s
  | addcAImm k => exact execAddcAImm_chain k s
  | subbARn n => exact execSubbARn_chain n s
  | subbADirect d => exact execSubbADirect_chain d s
  | subbAInd i => exact execSubbAInd_chain i s
  | subbAImm k => exact execSubbAImm_chain k s
  | incA => exact execIncA_chain s
  | incRn n => exact execIncRn_chain n s
  | incDirect d => exact execIncDirect_chain d s
  | incInd i => exact execIncInd_chain i s
  | incDptr => exact execIncDptr_chain s
  | decA => exact execDecA_chain s
  | decRn n => exact execDecRn_chain n s
  | decDirect d => exact execDecDirect_chain d s
  | decInd i => exact execDecInd_chain i s
  | mulAB => exact execMulAB_chain s
  | divAB => exact execDivAB_chain s
  | daA => exact execDaA_chain s
  | anlARn n => exact execAnlARn_chain n s
  | anlADirect d => exact execAnlADirect_chain d s
  | anlAInd i => exact execAnlAInd_chain i s
  | anlAImm k => exact execAnlAImm_chain k s
  | anlDirectA d => exact execAnlDirectA_chain d s
  | anlDirectImm d k => exact execAnlDirectImm_chain d k s
  | orlARn n => exact execOrlARn_chain n s
  | orlADirect d => exact execOrlADirect_chain d s
  | orlAInd i => exact execOrlAInd_chain i s
  | orlAImm k => exact execOrlAImm_chain k s
  | orlDirectA d => exact execOrlDirectA_chain d s
  | orlDirectImm d k => exact execOrlDirectImm_chain d k s
  | xrlARn n => exact execXrlARn_chain n s
  | xrlADirect d => exact execXrlADirect_chain d s
  | xrlAInd i => exact execXrlAInd_chain i s
  | xrlAImm k => exact execXrlAImm_chain k s
  | xrlDirectA d => exact execXrlDirectA_chain d s
  | xrlDirectImm d k => exact execXrlDirectImm_chain d k s
  | clrA => exact execClrA_chain s
  | cplA => exact execCplA_chain s
  | rlA => exact execRlA_chain s
  | rlcA => exact execRlcA_chain s
  | rrA => exact execRrA_chain s
  | rrcA => exact execRrcA_chain s
  | swapA => exact execSwapA_chain s
  | movARn n => exact execMovARn_chain n s
  | movADirect d => exact execMovADirect_chain d s
  | movAInd i => exact execMovAInd_chain i s
  | movAImm k => exact execMovAImm_chain k s
  | movRnA n => exact execMovRnA_chain n s
  | movRnDirect n d => exact execMovRnDirect_chain n d s
  | movRnImm n k => exact execMovRnImm_chain n k s
  | movDirectA d => exact execMovDirectA_chain d s
  | movDirectRn n d => exact execMovDirectRn_chain n d s
  | movDirectDirect src dst => exact execMovDirectDirect_chain src dst s
  | movDirectInd i d => exact execMovDirectInd_chain i d s
  | movDirectImm d k => exact execMovDirectImm_chain d k s
  | movIndA i => exact execMovIndA_chain i s
  | movIndDirect i d => exact execMovIndDirect_chain i d s
  | movIndImm i k => exact execMovIndImm_chain i k s
  | movDptrImm k => exact execMovDptrImm_chain k s
  | movcADptr => exact execMovcADptr_chain s
  | movcAPc => exact execMovcAPc_chain s
  | movxAInd i => exact execMovxAInd_chain i s
  | movxADptr => exact execMovxADptr_chain s
  | movxIndA i => exact execMovxIndA_chain i s
  | movxDptrA => exact execMovxDptrA_chain s
  | push d => exact execPush_chain d s
  | pop d => exact execPop_chain d s
  | xchARn n => exact execXchARn_chain n s
  | xchADirect d => exact execXchADirect_chain d s
  | xchAInd i => exact execXchAInd_chain i s
  | xchdAInd i => exact execXchdAInd_chain i s
  | clrC => exact execClrC_chain s
  | clrBit b => exact execClrBit_chain b s
  | setbC => exact execSetbC_chain s
  | setbBit b => exact execSetbBit_chain b s
  | cplC => exact execCplC_chain s
  | cplBit b => exact execCplBit_chain b s
  | anlCBit b => exact execAnlCBit_chain b s
  | anlCNotBit b => exact execAnlCNotBit_chain b s
  | orlCBit b => exact execOrlCBit_chain b s
  | orlCNotBit b => exact execOrlCNotBit_chain b s
  | movCBit b => exact execMovCBit_chain b s
  | movBitC b => exact execMovBitC_chain b s
  | jc e => exact execJc_chain e s
  | jnc e => exact execJnc_chain e s
  | jb b e => exact execJb_chain b e s
  | jnb b e => exact execJnb_chain b e s
  | jbc b e => exact execJbc_chain b e s
  | acall a => exact execAcall_chain a s
  | lcall a => exact execLcall_chain a s
  | ret => exact execRet_chain s
  | reti => exact execReti_chain s
  | ajmp a => exact execAjmp_chain a s
  | ljmp a => exact execLjmp_chain a s
  | sjmp e => exact execSjmp_chain e s
  | jmpADptr => exact execJmpADptr_chain s
  | jz e => exact execJz_chain e s
  | jnz e => exact execJnz_chain e s
  | cjneADirect d e => exact execCjneADirect_chain d e s
  | cjneAImm k e => exact execCjneAImm_chain k e s
  | cjneRnImm n k e => exact execCjneRnImm_chain n k e s
  | cjneIndImm i k e => exact execCjneIndImm_chain i k e s
  | djnzRn n e => exact execDjnzRn_chain n e s
  | djnzDirect d e => exact execDjnzDirect_chain d e s
  | nop => exact execNop_chain s
  | reserved => exact execReserved_chain s

/-- So is the next state of a step. -/
theorem step_chain {s t : State} (h : step s = .next t) : Chain s t := by
  obtain ⟨i, _, hi⟩ := step_eq_next h
  exact exec_chain i s t hi

end Sys2Proof.Machine
end

