-- ==== Sys2Proof/Laws/Flags.lean ====
section
/-! SUPPORT. What the flag computations of Flags.lean leave, each field as a number or a condition on
numbers. -/
namespace Sys2Proof.Machine

theorem and_0x0F (x : Byte) : (x &&& 0x0F).toNat = x.toNat % 16 := by
  have h : ∀ x : Byte, (x &&& 0x0F).toNat = x.toNat % 16 := by decide
  exact h x

theorem and_0x7F (x : Byte) : (x &&& 0x7F).toNat = x.toNat % 128 := by
  have h : ∀ x : Byte, (x &&& 0x7F).toNat = x.toNat % 128 := by decide
  exact h x

/-- A bit of PSW after CY, then A: the shape of a rotate and of DA. -/
theorem State.setCy_writeA_bit (s : State) (c : Bool) (v : Byte) (k : Nat) :
    ((s.setCy c).writeA v).psw.getLsbD k =
      if k = 0 then parity v else if k = 7 then c else s.psw.getLsbD k := by
  rw [State.writeA_bit, State.setCy_eq, State.setPswBit_bit _ _ _ _ (by decide)]

/-- A bit of PSW after CY, OV, then A: the shape of MUL and DIV. -/
theorem State.setCy_setOv_writeA_bit (s : State) (c o : Bool) (v : Byte) (k : Nat) :
    (((s.setCy c).setOv o).writeA v).psw.getLsbD k =
      if k = 0 then parity v else if k = 2 then o else if k = 7 then c else s.psw.getLsbD k := by
  rw [State.writeA_bit, State.setOv_eq, State.setPswBit_bit _ _ _ _ (by decide), State.setCy_eq,
    State.setPswBit_bit _ _ _ _ (by decide)]

/-- A bit of PSW after CY, AC, OV, then A: the shape of ADD and SUBB. -/
theorem State.setFlags_writeA_bit (s : State) (c a o : Bool) (v : Byte) (k : Nat) :
    ((((s.setCy c).setAc a).setOv o).writeA v).psw.getLsbD k =
      if k = 0 then parity v else if k = 2 then o else if k = 6 then a else if k = 7 then c
      else s.psw.getLsbD k := by
  rw [State.writeA_bit, State.setOv_eq, State.setPswBit_bit _ _ _ _ (by decide), State.setAc_eq,
    State.setPswBit_bit _ _ _ _ (by decide), State.setCy_eq, State.setPswBit_bit _ _ _ _ (by decide)]

/-! ## `addCore` -/

theorem State.addCore_a (s : State) (x : Byte) (c : Bool) :
    (s.addCore x c).a.toNat = (s.a.toNat + x.toNat + c.toNat) % 256 := BitVec.toNat_ofNat ..

theorem State.addCore_p (s : State) (x : Byte) (c : Bool) : (s.addCore x c).p = parity (s.addCore x c).a :=
  State.writeA_p _ _

theorem State.addCore_cy (s : State) (x : Byte) (c : Bool) :
    (s.addCore x c).cy = decide (s.a.toNat + x.toNat + c.toNat > 255) :=
  State.setFlags_writeA_bit s _ _ _ _ 7

theorem State.addCore_ac (s : State) (x : Byte) (c : Bool) :
    (s.addCore x c).ac = decide (s.a.toNat % 16 + x.toNat % 16 + c.toNat > 15) := by
  rw [← and_0x0F, ← and_0x0F]; exact State.setFlags_writeA_bit s _ _ _ _ 6

theorem State.addCore_ov (s : State) (x : Byte) (c : Bool) :
    (s.addCore x c).ov = (decide (s.a.toNat % 128 + x.toNat % 128 + c.toNat > 127) ^^
      decide (s.a.toNat + x.toNat + c.toNat > 255)) := by
  rw [← and_0x7F, ← and_0x7F]; exact State.setFlags_writeA_bit s _ _ _ _ 2

/-! ## `subCore` -/

theorem State.subCore_a (s : State) (x : Byte) (c : Bool) :
    ((s.subCore x c).a.toNat : Int) = ((s.a.toNat : Int) - x.toNat - c.toNat) % 256 := by
  show ((BitVec.ofInt 8 _).toNat : Int) = _
  rw [BitVec.toNat_ofInt]
  omega

theorem State.subCore_p (s : State) (x : Byte) (c : Bool) : (s.subCore x c).p = parity (s.subCore x c).a :=
  State.writeA_p _ _

theorem State.subCore_cy (s : State) (x : Byte) (c : Bool) :
    (s.subCore x c).cy = decide (s.a.toNat < x.toNat + c.toNat) :=
  State.setFlags_writeA_bit s _ _ _ _ 7

theorem State.subCore_ac (s : State) (x : Byte) (c : Bool) :
    (s.subCore x c).ac = decide (s.a.toNat % 16 < x.toNat % 16 + c.toNat) := by
  rw [← and_0x0F, ← and_0x0F]; exact State.setFlags_writeA_bit s _ _ _ _ 6

theorem State.subCore_ov (s : State) (x : Byte) (c : Bool) :
    (s.subCore x c).ov = (decide (s.a.toNat % 128 < x.toNat % 128 + c.toNat) ^^
      decide (s.a.toNat < x.toNat + c.toNat)) := by
  rw [← and_0x7F, ← and_0x7F]; exact State.setFlags_writeA_bit s _ _ _ _ 2

/-! ## `mulCore` and `divCore` -/

theorem State.mulCore_product (s : State) :
    s.mulCore.b.toNat * 256 + s.mulCore.a.toNat = s.a.toNat * s.b.toNat := by
  have h : s.a.toNat * s.b.toNat ≤ 255 * 255 :=
    Nat.mul_le_mul (Nat.le_of_lt_succ s.a.isLt) (Nat.le_of_lt_succ s.b.isLt)
  show (BitVec.ofNat 8 _).toNat * 256 + (BitVec.ofNat 8 _).toNat = _
  rw [BitVec.toNat_ofNat, BitVec.toNat_ofNat]
  omega

theorem State.mulCore_p (s : State) : s.mulCore.p = parity s.mulCore.a := State.writeA_p _ _

theorem State.mulCore_cy (s : State) : s.mulCore.cy = false := State.setCy_setOv_writeA_bit (s.setB _) _ _ _ 7

theorem State.mulCore_ov (s : State) : s.mulCore.ov = decide (s.a.toNat * s.b.toNat > 255) :=
  State.setCy_setOv_writeA_bit (s.setB _) _ _ _ 2

/-- DIV by zero: OV set, CY cleared, everything else kept. -/
theorem State.divCore_zero (s : State) (h : s.b = 0) : s.divCore = (s.setCy false).setOv true := if_pos h

theorem State.divCore_of_ne (s : State) (h : s.b ≠ 0) :
    s.divCore = (((s.setB (BitVec.ofNat 8 (s.a.toNat % s.b.toNat))).setCy false).setOv false).writeA
      (BitVec.ofNat 8 (s.a.toNat / s.b.toNat)) := if_neg h

theorem State.divCore_cy (s : State) : s.divCore.cy = false := by
  by_cases h : s.b = 0
  · rw [State.divCore_zero s h, State.cy, State.setOv_eq, State.setPswBit_bit _ _ _ _ (by decide), State.setCy_eq,
      State.setPswBit_bit _ _ _ _ (by decide)]
    rfl
  · rw [State.divCore_of_ne s h]; exact State.setCy_setOv_writeA_bit (s.setB _) _ _ _ 7

theorem State.divCore_ov (s : State) : s.divCore.ov = decide (s.b = 0) := by
  by_cases h : s.b = 0
  · rw [State.divCore_zero s h, State.ov, State.setOv_eq, State.setPswBit_bit _ _ _ _ (by decide)]
    simp [h]
  · rw [State.divCore_of_ne s h, decide_eq_false h]; exact State.setCy_setOv_writeA_bit (s.setB _) _ _ _ 2

theorem State.divCore_quotient (s : State) (h : s.b ≠ 0) : s.divCore.a.toNat = s.a.toNat / s.b.toNat := by
  rw [State.divCore_of_ne s h]
  show (BitVec.ofNat 8 _).toNat = _
  rw [BitVec.toNat_ofNat]
  exact Nat.mod_eq_of_lt (Nat.lt_of_le_of_lt (Nat.div_le_self _ _) s.a.isLt)

theorem State.divCore_remainder (s : State) (h : s.b ≠ 0) : s.divCore.b.toNat = s.a.toNat % s.b.toNat := by
  rw [State.divCore_of_ne s h]
  show (BitVec.ofNat 8 _).toNat = _
  rw [BitVec.toNat_ofNat]
  exact Nat.mod_eq_of_lt (Nat.lt_of_le_of_lt (Nat.mod_le _ _) s.a.isLt)

theorem State.divCore_p (s : State) (h : s.b ≠ 0) : s.divCore.p = parity s.divCore.a := by
  rw [State.divCore_of_ne s h]; exact State.writeA_p _ _

/-! ## `daCore` -/

/-- One correction of DA, as a number and its carry. -/
theorem daStep_eq (t : Nat) (cy adjust : Bool) (k : Nat) (ht : t < 256) :
    daStep t cy adjust k = ((t + if adjust then k else 0) % 256, cy || decide (t + (if adjust then k else 0) > 255)) := by
  cases adjust
  · have h1 : t % 256 = t := Nat.mod_eq_of_lt ht
    have h2 : ¬t > 255 := by omega
    simp [daStep, h1, h2]
  · simp [daStep]

theorem State.daCore_p (s : State) : s.daCore.p = parity s.daCore.a := State.writeA_p _ _

/-! ## Rotates through carry -/

theorem State.rlcCore_cy (s : State) : s.rlcCore.cy = s.a.getLsbD 7 := State.setCy_writeA_bit s _ _ 7
theorem State.rrcCore_cy (s : State) : s.rrcCore.cy = s.a.getLsbD 0 := State.setCy_writeA_bit s _ _ 7
theorem State.rlcCore_p (s : State) : s.rlcCore.p = parity s.rlcCore.a := State.writeA_p _ _
theorem State.rrcCore_p (s : State) : s.rrcCore.p = parity s.rrcCore.a := State.writeA_p _ _

end Sys2Proof.Machine
end

