-- ==== Sys2Proof/Laws/Run.lean ====
section
/-! SUPPORT. What a run as the host makes it does at each step, and what its two parameters leave fixed. -/
namespace Sys2Proof.Machine

variable {ends : RunEndPredicate} {onFault : HostOnFault} {n : Nat} {run : Run} {s t : State} {f : Fault}

theorem continueRun_zero : continueRun ends onFault 0 run s = ⟨.budget, run, s⟩ := rfl

/-- A completed step: the run is over if RUN_END holds of it, else it goes on from the state after. -/
theorem continueRun_next (h : step s = .next t) :
    continueRun ends onFault (n + 1) run s =
      if ends (⟨s, none, t⟩ :: run) then ⟨.ended, ⟨s, none, t⟩ :: run, t⟩
      else continueRun ends onFault n (⟨s, none, t⟩ :: run) t := by
  simp only [continueRun, h]

/-- A fault under the reference policy ends the run, with the state before the step (R356, convention 2). -/
theorem continueRun_fault_stop (h : step s = .fault f) :
    continueRun ends .stop (n + 1) run s = ⟨.faulted f, ⟨s, some f, s⟩ :: run, s⟩ := by
  simp [continueRun, h]

/-- A fault under the other policy: RUN_END decides, and the next step starts from the same state. -/
theorem continueRun_fault_continue (h : step s = .fault f) :
    continueRun ends .continue (n + 1) run s =
      if ends (⟨s, some f, s⟩ :: run) then ⟨.ended, ⟨s, some f, s⟩ :: run, s⟩
      else continueRun ends .continue n (⟨s, some f, s⟩ :: run) s := by
  simp [continueRun, h]

/-- Stepping again after a fault, without a change made by the host, returns the same fault: whatever RUN_END
is, every step such a run adds has that status and that state (`60_exceptions.md` R303). -/
theorem continueRun_repeats_fault (h : step s = .fault f) :
    (continueRun ends .continue n run s).final = s ∧
    ∃ k, (continueRun ends .continue n run s).run = List.replicate k ⟨s, some f, s⟩ ++ run := by
  induction n generalizing run with
  | zero => exact ⟨rfl, 0, rfl⟩
  | succ n ih =>
    rw [continueRun_fault_continue h]
    split
    · exact ⟨rfl, 1, rfl⟩
    · obtain ⟨hs, k, hk⟩ := ih (run := ⟨s, some f, s⟩ :: run)
      refine ⟨hs, k + 1, ?_⟩
      rw [hk, List.replicate_succ', List.append_assoc]
      rfl

/-- A step recorded as the idle loop leaves PC where it was (R356, convention 1). -/
theorem StepRecord.isIdleLoop_pc {r : StepRecord} (h : r.isIdleLoop = true) :
    r.status = none ∧ r.after.pc = r.before.pc := by
  have h := of_decide_eq_true h
  exact ⟨h.1, h.2.1⟩

end Sys2Proof.Machine
end

