-- ==== Sys2Proof/Tests/Slice0.lean ====
section
/-! SUPPORT. Tests of the model: the well-formedness check on an ill-formed term, the decoder on words
written out from the encoding column of `30_encoding.md` R120, one step of each form on a vector of
`95_test_vectors.md` and `96_test_programs.md` (the docstring names it), and a witness for the hypotheses
of every statement. Expected values come from those files, never from the model. -/
namespace Sys2Proof.Tests
open Sys2Proof.Machine

/-! ## Helpers -/

/-- The vector base state with `bytes` as the whole program. -/
def program (bytes : List Byte) : State := State.reset.loadCode bytes

/-- What `look` sees of the next state of a step, if there is one. -/
def after {α : Type} (s : State) (look : State → α) : Option α :=
  match step s with
  | .next t => some (look t)
  | .fault _ => none
  | .refused _ => none

/-- The step raises `f`. -/
abbrev faults (f : Fault) (s : State) : Prop := statusCode (step s) = some f.code

/-- `bytes` decode to `i` and nothing is left over. -/
abbrev decodesTo (bytes : List Byte) (i : Instr) : Prop :=
  (match decode bytes with
    | .ok (j, rest) => decide (j = i) && rest.isEmpty
    | .error _ => false) = true

/-! ## Well-formedness -/

theorem test_reserved_is_ill_formed : Instr.notReserved .reserved = false ∧ Instr.wellFormed .reserved = false := by
  decide

theorem test_others_are_well_formed :
    Instr.wellFormed .nop = true ∧ Instr.wellFormed (.movDirectDirect 0xFF 0x80) = true ∧
    Instr.wellFormed (.acall 0x7FF) = true := by decide

/-! ## Decoding -/

theorem test_decode_arithmetic_1 :
    decodesTo [0b00101101] (.addARn 5) ∧
    decodesTo [0b00100101, 0b10011100] (.addADirect 0x9C) ∧
    decodesTo [0b00100111] (.addAInd 1) ∧
    decodesTo [0b00100100, 0b10011100] (.addAImm 0x9C) ∧
    decodesTo [0b00111101] (.addcARn 5) ∧
    decodesTo [0b00110101, 0b10011100] (.addcADirect 0x9C) ∧
    decodesTo [0b00110111] (.addcAInd 1) ∧
    decodesTo [0b00110100, 0b10011100] (.addcAImm 0x9C) ∧
    decodesTo [0b10011101] (.subbARn 5) ∧
    decodesTo [0b10010101, 0b10011100] (.subbADirect 0x9C) := by decide

theorem test_decode_arithmetic_2 :
    decodesTo [0b10010111] (.subbAInd 1) ∧
    decodesTo [0b10010100, 0b10011100] (.subbAImm 0x9C) ∧
    decodesTo [0b00000100] .incA ∧
    decodesTo [0b00001101] (.incRn 5) ∧
    decodesTo [0b00000101, 0b10011100] (.incDirect 0x9C) ∧
    decodesTo [0b00000111] (.incInd 1) ∧
    decodesTo [0b10100011] .incDptr ∧
    decodesTo [0b00010100] .decA ∧
    decodesTo [0b00011101] (.decRn 5) ∧
    decodesTo [0b00010101, 0b10011100] (.decDirect 0x9C) := by decide

theorem test_decode_arithmetic_3 :
    decodesTo [0b00010111] (.decInd 1) ∧
    decodesTo [0b10100100] .mulAB ∧
    decodesTo [0b10000100] .divAB ∧
    decodesTo [0b11010100] .daA := by decide

theorem test_decode_logical_1 :
    decodesTo [0b01011101] (.anlARn 5) ∧
    decodesTo [0b01010101, 0b10011100] (.anlADirect 0x9C) ∧
    decodesTo [0b01010111] (.anlAInd 1) ∧
    decodesTo [0b01010100, 0b10011100] (.anlAImm 0x9C) ∧
    decodesTo [0b01010010, 0b10011100] (.anlDirectA 0x9C) ∧
    decodesTo [0b01010011, 0b10011100, 0b01100011] (.anlDirectImm 0x9C 0x63) ∧
    decodesTo [0b01001101] (.orlARn 5) ∧
    decodesTo [0b01000101, 0b10011100] (.orlADirect 0x9C) ∧
    decodesTo [0b01000111] (.orlAInd 1) ∧
    decodesTo [0b01000100, 0b10011100] (.orlAImm 0x9C) := by decide

theorem test_decode_logical_2 :
    decodesTo [0b01000010, 0b10011100] (.orlDirectA 0x9C) ∧
    decodesTo [0b01000011, 0b10011100, 0b01100011] (.orlDirectImm 0x9C 0x63) ∧
    decodesTo [0b01101101] (.xrlARn 5) ∧
    decodesTo [0b01100101, 0b10011100] (.xrlADirect 0x9C) ∧
    decodesTo [0b01100111] (.xrlAInd 1) ∧
    decodesTo [0b01100100, 0b10011100] (.xrlAImm 0x9C) ∧
    decodesTo [0b01100010, 0b10011100] (.xrlDirectA 0x9C) ∧
    decodesTo [0b01100011, 0b10011100, 0b01100011] (.xrlDirectImm 0x9C 0x63) ∧
    decodesTo [0b11100100] .clrA ∧
    decodesTo [0b11110100] .cplA := by decide

theorem test_decode_logical_3 :
    decodesTo [0b00100011] .rlA ∧
    decodesTo [0b00110011] .rlcA ∧
    decodesTo [0b00000011] .rrA ∧
    decodesTo [0b00010011] .rrcA ∧
    decodesTo [0b11000100] .swapA := by decide

theorem test_decode_dataTransfer_1 :
    decodesTo [0b11101101] (.movARn 5) ∧
    decodesTo [0b11100101, 0b10011100] (.movADirect 0x9C) ∧
    decodesTo [0b11100111] (.movAInd 1) ∧
    decodesTo [0b01110100, 0b10011100] (.movAImm 0x9C) ∧
    decodesTo [0b11111101] (.movRnA 5) ∧
    decodesTo [0b10101101, 0b10011100] (.movRnDirect 5 0x9C) ∧
    decodesTo [0b01111101, 0b10011100] (.movRnImm 5 0x9C) ∧
    decodesTo [0b11110101, 0b10011100] (.movDirectA 0x9C) ∧
    decodesTo [0b10001101, 0b10011100] (.movDirectRn 5 0x9C) ∧
    decodesTo [0b10000101, 0b10011100, 0b01100011] (.movDirectDirect 0x9C 0x63) := by decide

theorem test_decode_dataTransfer_2 :
    decodesTo [0b10000111, 0b10011100] (.movDirectInd 1 0x9C) ∧
    decodesTo [0b01110101, 0b10011100, 0b01100011] (.movDirectImm 0x9C 0x63) ∧
    decodesTo [0b11110111] (.movIndA 1) ∧
    decodesTo [0b10100111, 0b10011100] (.movIndDirect 1 0x9C) ∧
    decodesTo [0b01110111, 0b10011100] (.movIndImm 1 0x9C) ∧
    decodesTo [0b10010000, 0b10011100, 0b01100011] (.movDptrImm 0x9C63) ∧
    decodesTo [0b10010011] .movcADptr ∧
    decodesTo [0b10000011] .movcAPc ∧
    decodesTo [0b11100011] (.movxAInd 1) ∧
    decodesTo [0b11100000] .movxADptr := by decide

theorem test_decode_dataTransfer_3 :
    decodesTo [0b11110011] (.movxIndA 1) ∧
    decodesTo [0b11110000] .movxDptrA ∧
    decodesTo [0b11000000, 0b10011100] (.push 0x9C) ∧
    decodesTo [0b11010000, 0b10011100] (.pop 0x9C) ∧
    decodesTo [0b11001101] (.xchARn 5) ∧
    decodesTo [0b11000101, 0b10011100] (.xchADirect 0x9C) ∧
    decodesTo [0b11000111] (.xchAInd 1) ∧
    decodesTo [0b11010111] (.xchdAInd 1) := by decide

theorem test_decode_boolean_1 :
    decodesTo [0b11000011] .clrC ∧
    decodesTo [0b11000010, 0b10011100] (.clrBit 0x9C) ∧
    decodesTo [0b11010011] .setbC ∧
    decodesTo [0b11010010, 0b10011100] (.setbBit 0x9C) ∧
    decodesTo [0b10110011] .cplC ∧
    decodesTo [0b10110010, 0b10011100] (.cplBit 0x9C) ∧
    decodesTo [0b10000010, 0b10011100] (.anlCBit 0x9C) ∧
    decodesTo [0b10110000, 0b10011100] (.anlCNotBit 0x9C) ∧
    decodesTo [0b01110010, 0b10011100] (.orlCBit 0x9C) ∧
    decodesTo [0b10100000, 0b10011100] (.orlCNotBit 0x9C) := by decide

theorem test_decode_boolean_2 :
    decodesTo [0b10100010, 0b10011100] (.movCBit 0x9C) ∧
    decodesTo [0b10010010, 0b10011100] (.movBitC 0x9C) ∧
    decodesTo [0b01000000, 0b10011100] (.jc 0x9C) ∧
    decodesTo [0b01010000, 0b10011100] (.jnc 0x9C) ∧
    decodesTo [0b00100000, 0b10011100, 0b01100011] (.jb 0x9C 0x63) ∧
    decodesTo [0b00110000, 0b10011100, 0b01100011] (.jnb 0x9C 0x63) ∧
    decodesTo [0b00010000, 0b10011100, 0b01100011] (.jbc 0x9C 0x63) := by decide

theorem test_decode_controlTransfer_1 :
    decodesTo [0b11010001, 0b10011100] (.acall 0x69C) ∧
    decodesTo [0b00010010, 0b10011100, 0b01100011] (.lcall 0x9C63) ∧
    decodesTo [0b00100010] .ret ∧
    decodesTo [0b00110010] .reti ∧
    decodesTo [0b11000001, 0b10011100] (.ajmp 0x69C) ∧
    decodesTo [0b00000010, 0b10011100, 0b01100011] (.ljmp 0x9C63) ∧
    decodesTo [0b10000000, 0b10011100] (.sjmp 0x9C) ∧
    decodesTo [0b01110011] .jmpADptr ∧
    decodesTo [0b01100000, 0b10011100] (.jz 0x9C) ∧
    decodesTo [0b01110000, 0b10011100] (.jnz 0x9C) := by decide

theorem test_decode_controlTransfer_2 :
    decodesTo [0b10110101, 0b10011100, 0b01100011] (.cjneADirect 0x9C 0x63) ∧
    decodesTo [0b10110100, 0b10011100, 0b01100011] (.cjneAImm 0x9C 0x63) ∧
    decodesTo [0b10111101, 0b10011100, 0b01100011] (.cjneRnImm 5 0x9C 0x63) ∧
    decodesTo [0b10110111, 0b10011100, 0b01100011] (.cjneIndImm 1 0x9C 0x63) ∧
    decodesTo [0b11011101, 0b10011100] (.djnzRn 5 0x9C) ∧
    decodesTo [0b11010101, 0b10011100, 0b01100011] (.djnzDirect 0x9C 0x63) ∧
    decodesTo [0b00000000] .nop ∧
    decodesTo [0b10100101] .reserved := by decide

theorem test_decode_truncated :
    decodesTo [0x24] (.addAImm 0) = False ∧ decodesTo [] .nop = False := by
  constructor <;> simp only [eq_iff_iff, iff_false] <;> decide

/-- `84` in the opcode table's numbering is one byte, `53 90 0F` three, the first the least significant. -/
theorem test_decode_table_word :
    decodeTableWord 8 0x84 = some .divAB ∧ decodeTableWord 24 0x0F9053 = some (.anlDirectImm 0x90 0x0F) ∧
    decodeTableWord 8 0x24 = some (.addAImm 0) ∧ decodeTableWord 8 0xA5 = some .reserved := by decide

/-- A word placed for the next step is what the next step runs. -/
theorem test_with_fetch_word :
    after (State.reset.withFetchWord 24 0x563412) (fun t => (t.pc, t.sp, t.iramRead 0x08)) =
      some (0x3456, 0x09, 0x03) ∧
    faults .unknownOpcode (State.reset.withFetchWord 8 0xA5) := by decide

/-! ## One step of each form of 40_arithmetic.md -/

/-- VA1, `ADD A,Rn`. -/
theorem test_addARn : after { program [0x2B] with a := 0x3A, iram := [(0x03, 0xC6)] }
    (fun t => (t.pc, t.a, t.psw)) = some (0x01, 0x00, 0xC0) := by decide

/-- VA2, `ADD A,direct`. -/
theorem test_addADirect : after { program [0x25, 0x30] with a := 0x7F, iram := [(0x30, 0x01)] }
    (fun t => (t.pc, t.a, t.psw)) = some (0x02, 0x80, 0x45) := by decide

/-- VA3, `ADD A,@Ri`. -/
theorem test_addAInd : after { program [0x26] with a := 0x80, iram := [(0x00, 0x40), (0x40, 0x80)] }
    (fun t => (t.pc, t.a, t.psw)) = some (0x01, 0x00, 0x84) := by decide

/-- VA4, `ADD A,#data`. -/
theorem test_addAImm : after { program [0x24, 0x01] with a := 0xFF }
    (fun t => (t.pc, t.a, t.psw)) = some (0x02, 0x00, 0xC0) := by decide

/-- VA5, `ADD A,#data`. -/
theorem test_addAImm_2 : after { program [0x24, 0x0F] with a := 0x01 }
    (fun t => (t.pc, t.a, t.psw)) = some (0x02, 0x10, 0x41) := by decide

/-- VA6, `ADDC A,Rn`. -/
theorem test_addcARn : after { program [0x38] with a := 0xC3, psw := 0x80, iram := [(0x00, 0xAA)] }
    (fun t => (t.pc, t.a, t.psw)) = some (0x01, 0x6E, 0x85) := by decide

/-- VA7, `ADDC A,direct`. -/
theorem test_addcADirect : after { program [0x35, 0x30] with a := 0xFF, psw := 0x80 }
    (fun t => (t.pc, t.a, t.psw)) = some (0x02, 0x00, 0xC0) := by decide

/-- VA8, `ADDC A,@Ri`. -/
theorem test_addcAInd : after { program [0x37] with a := 0x0F, psw := 0x80, iram := [(0x01, 0x50)] }
    (fun t => (t.pc, t.a, t.psw)) = some (0x01, 0x10, 0x41) := by decide

/-- VA9, `ADDC A,#data`. -/
theorem test_addcAImm : after { program [0x34, 0x7F] with a := 0x00, psw := 0x80 }
    (fun t => (t.pc, t.a, t.psw)) = some (0x02, 0x80, 0x45) := by decide

/-- VA10, `SUBB A,Rn`. -/
theorem test_subbARn : after { program [0x9A] with a := 0xC9, psw := 0x80, iram := [(0x02, 0x54)] }
    (fun t => (t.pc, t.a, t.psw)) = some (0x01, 0x74, 0x04) := by decide

/-- VA11, `SUBB A,direct`. -/
theorem test_subbADirect : after { program [0x95, 0x30] with a := 0x00, psw := 0x80 }
    (fun t => (t.pc, t.a, t.psw)) = some (0x02, 0xFF, 0xC0) := by decide

/-- VA12, `SUBB A,@Ri`. -/
theorem test_subbAInd : after { program [0x96] with a := 0x80, iram := [(0x00, 0x40), (0x40, 0x01)] }
    (fun t => (t.pc, t.a, t.psw)) = some (0x01, 0x7F, 0x45) := by decide

/-- VA13, `SUBB A,#data`. -/
theorem test_subbAImm : after { program [0x94, 0x01] with a := 0x00 }
    (fun t => (t.pc, t.a, t.psw)) = some (0x02, 0xFF, 0xC0) := by decide

/-- VX4, `SUBB A,#data`. -/
theorem test_subbAImm_2 : after { program [0x94, 0x55] with a := 0x55 }
    (fun t => (t.pc, t.a, t.psw)) = some (0x02, 0x00, 0x00) := by decide

/-- VA16, `INC A`. -/
theorem test_incA : after { program [0x04] with a := 0xFF }
    (fun t => (t.pc, t.a, t.psw)) = some (0x01, 0x00, 0x00) := by decide

/-- VA18, `INC Rn`. -/
theorem test_incRn : after { program [0x0F] with iram := [(0x07, 0xFF)] }
    (fun t => (t.pc, t.a, t.psw, t.iramRead 0x07)) = some (0x01, 0x00, 0x00, 0x00) := by decide

/-- VA19, `INC Rn`. -/
theorem test_incRn_2 : after { program [0x0F] with psw := 0x18, iram := [(0x07, 0x55), (0x1F, 0x0F)] }
    (fun t => (t.pc, t.a, t.psw, t.iramRead 0x1F)) = some (0x01, 0x00, 0x18, 0x10) := by decide

/-- VA20, `INC direct`. -/
theorem test_incDirect : after { program [0x05, 0x7F] with iram := [(0x7F, 0x7F)] }
    (fun t => (t.pc, t.a, t.psw, t.iramRead 0x7F)) = some (0x02, 0x00, 0x00, 0x80) := by decide

/-- VA21, `INC direct`. -/
theorem test_incDirect_2 : after { program [0x05, 0x90] with iram := [(0x90, 0x11)], inReg := [0x90], inputs := [0xFE], outReg := [0x90] }
    (fun t => (t.pc, t.a, t.psw, t.trace)) = some (0x02, 0x00, 0x00, [.input 0x90 0xFE, .output 0x90 0xFF]) := by decide

/-- VA22, `INC @Ri`. -/
theorem test_incInd : after { program [0x07] with iram := [(0x01, 0xFF), (0xFF, 0xFF)] }
    (fun t => (t.pc, t.a, t.psw, t.iramRead 0xFF)) = some (0x01, 0x00, 0x00, 0x00) := by decide

/-- VA24, `INC DPTR`. -/
theorem test_incDptr : after { program [0xA3] with dptr := 0x12FF }
    (fun t => (t.pc, t.a, t.psw, t.dptr)) = some (0x01, 0x00, 0x00, 0x1300) := by decide

/-- VA26, `DEC A`. -/
theorem test_decA : after { program [0x14] with a := 0x00 }
    (fun t => (t.pc, t.a, t.psw)) = some (0x01, 0xFF, 0x00) := by decide

/-- VA27, `DEC Rn`. -/
theorem test_decRn : after (program [0x18])
    (fun t => (t.pc, t.a, t.psw, t.iramRead 0x00)) = some (0x01, 0x00, 0x00, 0xFF) := by decide

/-- VA28, `DEC direct`. -/
theorem test_decDirect : after { program [0x15, 0x30] with iram := [(0x30, 0x01)] }
    (fun t => (t.pc, t.a, t.psw, t.iramRead 0x30)) = some (0x02, 0x00, 0x00, 0x00) := by decide

/-- VA29, `DEC @Ri`. -/
theorem test_decInd : after { program [0x16] with iram := [(0x00, 0x7F), (0x7F, 0x40)] }
    (fun t => (t.pc, t.a, t.psw, t.iramRead 0x7F)) = some (0x01, 0x00, 0x00, 0x3F) := by decide

/-- VA30, `MUL AB`. -/
theorem test_mulAB : after { program [0xA4] with a := 0xC8, b := 0xC8 }
    (fun t => (t.pc, t.a, t.psw, t.b)) = some (0x01, 0x40, 0x05, 0x9C) := by decide

/-- VX18, `MUL AB`. -/
theorem test_mulAB_2 : after { program [0xA4] with a := 0x7F, b := 0x01, psw := 0xC4 }
    (fun t => (t.pc, t.a, t.psw, t.b)) = some (0x01, 0x7F, 0x41, 0x00) := by decide

/-- VA35, `DIV AB`. -/
theorem test_divAB : after { program [0x84] with a := 0xFB, b := 0x12, psw := 0x84 }
    (fun t => (t.pc, t.a, t.psw, t.b)) = some (0x01, 0x0D, 0x01, 0x11) := by decide

/-- VA38, `DIV AB`. -/
theorem test_divAB_2 : after { program [0x84] with a := 0x5A, b := 0x00, psw := 0x80 }
    (fun t => (t.pc, t.a, t.psw)) = some (0x01, 0x5A, 0x04) := by decide

/-- VA40, `DA A`. -/
theorem test_daA : after { program [0xD4] with a := 0xBE }
    (fun t => (t.pc, t.a, t.psw)) = some (0x01, 0x24, 0x80) := by decide

/-- VA44, `DA A`. -/
theorem test_daA_2 : after { program [0xD4] with a := 0x9A, psw := 0x00 }
    (fun t => (t.pc, t.a, t.psw)) = some (0x01, 0x00, 0x80) := by decide

/-! ## One step of each form of 41_logical.md -/

/-- VL1, `ANL A,Rn`. -/
theorem test_anlARn : after { program [0x58] with a := 0xC3, iram := [(0x00, 0x55)] }
    (fun t => (t.pc, t.a, t.psw)) = some (0x01, 0x41, 0x00) := by decide

/-- VL2, `ANL A,direct`. -/
theorem test_anlADirect : after { program [0x55, 0x30] with a := 0xF0, iram := [(0x30, 0x3C)] }
    (fun t => (t.pc, t.a, t.psw)) = some (0x02, 0x30, 0x00) := by decide

/-- VL3, `ANL A,@Ri`. -/
theorem test_anlAInd : after { program [0x57] with a := 0xFF, iram := [(0x01, 0x40), (0x40, 0x81)] }
    (fun t => (t.pc, t.a, t.psw)) = some (0x01, 0x81, 0x00) := by decide

/-- VL4, `ANL A,#data`. -/
theorem test_anlAImm : after { program [0x54, 0x0F] with a := 0xA7, psw := 0xC4 }
    (fun t => (t.pc, t.a, t.psw)) = some (0x02, 0x07, 0xC5) := by decide

/-- VL5, `ANL direct,A`. -/
theorem test_anlDirectA : after { program [0x52, 0x30] with a := 0x0F, iram := [(0x30, 0xAA)] }
    (fun t => (t.pc, t.a, t.psw, t.iramRead 0x30)) = some (0x02, 0x0F, 0x00, 0x0A) := by decide

/-- VL6, `ANL direct,#data`. -/
theorem test_anlDirectImm : after { program [0x53, 0x90, 0x7F] with inReg := [0x90], inputs := [0xFF], outReg := [0x90] }
    (fun t => (t.pc, t.a, t.psw, t.trace)) = some (0x03, 0x00, 0x00, [.input 0x90 0xFF, .output 0x90 0x7F]) := by decide

/-- VL8, `ORL A,Rn`. -/
theorem test_orlARn : after { program [0x4F] with a := 0xC3, iram := [(0x07, 0x55)] }
    (fun t => (t.pc, t.a, t.psw)) = some (0x01, 0xD7, 0x00) := by decide

/-- VL9, `ORL A,direct`. -/
theorem test_orlADirect : after { program [0x45, 0x30] with a := 0x01, iram := [(0x30, 0x02)] }
    (fun t => (t.pc, t.a, t.psw)) = some (0x02, 0x03, 0x00) := by decide

/-- VL10, `ORL A,@Ri`. -/
theorem test_orlAInd : after { program [0x46] with a := 0x00, iram := [(0x00, 0x30)] }
    (fun t => (t.pc, t.a, t.psw)) = some (0x01, 0x00, 0x00) := by decide

/-- VL11, `ORL A,#data`. -/
theorem test_orlAImm : after { program [0x44, 0x80] with a := 0x01 }
    (fun t => (t.pc, t.a, t.psw)) = some (0x02, 0x81, 0x00) := by decide

/-- VL12, `ORL direct,A`. -/
theorem test_orlDirectA : after { program [0x42, 0x30] with a := 0x0F, iram := [(0x30, 0xA0)] }
    (fun t => (t.pc, t.a, t.psw, t.iramRead 0x30)) = some (0x02, 0x0F, 0x00, 0xAF) := by decide

/-- VL13, `ORL direct,#data`. -/
theorem test_orlDirectImm : after { program [0x43, 0x90, 0x01] with iram := [(0x90, 0x40)], outReg := [0x90] }
    (fun t => (t.pc, t.a, t.psw, t.trace)) = some (0x03, 0x00, 0x00, [.output 0x90 0x41]) := by decide

/-- VL14, `XRL A,Rn`. -/
theorem test_xrlARn : after { program [0x69] with a := 0xC3, iram := [(0x01, 0xAA)] }
    (fun t => (t.pc, t.a, t.psw)) = some (0x01, 0x69, 0x00) := by decide

/-- VL15, `XRL A,direct`. -/
theorem test_xrlADirect : after { program [0x65, 0x30] with a := 0xFF, iram := [(0x30, 0xFF)] }
    (fun t => (t.pc, t.a, t.psw)) = some (0x02, 0x00, 0x00) := by decide

/-- VL16, `XRL A,@Ri`. -/
theorem test_xrlAInd : after { program [0x66] with a := 0x55, iram := [(0x00, 0x31), (0x31, 0x0F)] }
    (fun t => (t.pc, t.a, t.psw)) = some (0x01, 0x5A, 0x00) := by decide

/-- VL17, `XRL A,#data`. -/
theorem test_xrlAImm : after { program [0x64, 0xFF] with a := 0x5A }
    (fun t => (t.pc, t.a, t.psw)) = some (0x02, 0xA5, 0x00) := by decide

/-- VL18, `XRL direct,A`. -/
theorem test_xrlDirectA : after { program [0x62, 0x30] with a := 0xFF, iram := [(0x30, 0x0F)] }
    (fun t => (t.pc, t.a, t.psw, t.iramRead 0x30)) = some (0x02, 0xFF, 0x00, 0xF0) := by decide

/-- VL19, `XRL direct,#data`. -/
theorem test_xrlDirectImm : after { program [0x63, 0x30, 0x01] with iram := [(0x30, 0x01)] }
    (fun t => (t.pc, t.a, t.psw, t.iramRead 0x30)) = some (0x03, 0x00, 0x00, 0x00) := by decide

/-- VL20, `CLR A`. -/
theorem test_clrA : after { program [0xE4] with a := 0x5C, psw := 0x81 }
    (fun t => (t.pc, t.a, t.psw)) = some (0x01, 0x00, 0x80) := by decide

/-- VL21, `CPL A`. -/
theorem test_cplA : after { program [0xF4] with a := 0x5C }
    (fun t => (t.pc, t.a, t.psw)) = some (0x01, 0xA3, 0x00) := by decide

/-- VL23, `RL A`. -/
theorem test_rlA : after { program [0x23] with a := 0xC5, psw := 0x00 }
    (fun t => (t.pc, t.a, t.psw)) = some (0x01, 0x8B, 0x00) := by decide

/-- VL25, `RLC A`. -/
theorem test_rlcA : after { program [0x33] with a := 0xC5 }
    (fun t => (t.pc, t.a, t.psw)) = some (0x01, 0x8A, 0x81) := by decide

/-- VL27, `RR A`. -/
theorem test_rrA : after { program [0x03] with a := 0xC5 }
    (fun t => (t.pc, t.a, t.psw)) = some (0x01, 0xE2, 0x00) := by decide

/-- VL29, `RRC A`. -/
theorem test_rrcA : after { program [0x13] with a := 0xC5 }
    (fun t => (t.pc, t.a, t.psw)) = some (0x01, 0x62, 0x81) := by decide

/-- VL31, `SWAP A`. -/
theorem test_swapA : after { program [0xC4] with a := 0xC5 }
    (fun t => (t.pc, t.a, t.psw)) = some (0x01, 0x5C, 0x00) := by decide

/-! ## One step of each form of 42_data_transfer.md -/

/-- VD1, `MOV A,Rn`. -/
theorem test_movARn : after { program [0xEB] with iram := [(0x03, 0x5A)] }
    (fun t => (t.pc, t.a, t.psw)) = some (0x01, 0x5A, 0x00) := by decide

/-- VD3, `MOV A,direct`. -/
theorem test_movADirect : after { program [0xE5, 0x30] with iram := [(0x30, 0x07)] }
    (fun t => (t.pc, t.a, t.psw)) = some (0x02, 0x07, 0x01) := by decide

/-- VD6, `MOV A,@Ri`. -/
theorem test_movAInd : after { program [0xE6] with iram := [(0x00, 0x80), (0x80, 0x99)], inReg := [0x80], inputs := [0x11] }
    (fun t => (t.pc, t.a, t.psw)) = some (0x01, 0x99, 0x00) := by decide

/-- VD7, `MOV A,#data`. -/
theorem test_movAImm : after { program [0x74, 0x00] with a := 0xFF, psw := 0x01 }
    (fun t => (t.pc, t.a, t.psw)) = some (0x02, 0x00, 0x00) := by decide

/-- VD9, `MOV Rn,A`. -/
theorem test_movRnA : after { program [0xFD] with a := 0x42 }
    (fun t => (t.pc, t.a, t.psw, t.iramRead 0x05)) = some (0x01, 0x42, 0x00, 0x42) := by decide

/-- VD11, `MOV Rn,direct`. -/
theorem test_movRnDirect : after { program [0xAA, 0x40] with iram := [(0x40, 0xAB)] }
    (fun t => (t.pc, t.a, t.psw, t.iramRead 0x02)) = some (0x02, 0x00, 0x00, 0xAB) := by decide

/-- VD12, `MOV Rn,#data`. -/
theorem test_movRnImm : after (program [0x7F, 0xFF])
    (fun t => (t.pc, t.a, t.psw, t.iramRead 0x07)) = some (0x02, 0x00, 0x00, 0xFF) := by decide

/-- VD13, `MOV direct,A`. -/
theorem test_movDirectA : after { program [0xF5, 0x30] with a := 0x5A }
    (fun t => (t.pc, t.a, t.psw, t.iramRead 0x30)) = some (0x02, 0x5A, 0x00, 0x5A) := by decide

/-- VD16, `MOV direct,Rn`. -/
theorem test_movDirectRn : after { program [0x89, 0x31] with iram := [(0x01, 0x22)] }
    (fun t => (t.pc, t.a, t.psw, t.iramRead 0x31)) = some (0x02, 0x00, 0x00, 0x22) := by decide

/-- VD17, `MOV direct,direct`. -/
theorem test_movDirectDirect : after { program [0x85, 0x40, 0x41] with iram := [(0x40, 0x11)] }
    (fun t => (t.pc, t.a, t.psw, t.iramRead 0x41)) = some (0x03, 0x00, 0x00, 0x11) := by decide

/-- VD19, `MOV direct,@Ri`. -/
theorem test_movDirectInd : after { program [0x86, 0x30] with iram := [(0x00, 0xF0), (0xF0, 0x66)] }
    (fun t => (t.pc, t.a, t.psw, t.iramRead 0x30)) = some (0x02, 0x00, 0x00, 0x66) := by decide

/-- VD20, `MOV direct,#data`. -/
theorem test_movDirectImm : after (program [0x75, 0x30, 0x12])
    (fun t => (t.pc, t.a, t.psw, t.iramRead 0x30)) = some (0x03, 0x00, 0x00, 0x12) := by decide

/-- VD22, `MOV @Ri,A`. -/
theorem test_movIndA : after { program [0xF7] with a := 0x77, iram := [(0x01, 0x90)], outReg := [0x90] }
    (fun t => (t.pc, t.a, t.psw, t.iramRead 0x90)) = some (0x01, 0x77, 0x00, 0x77) := by decide

/-- VD23, `MOV @Ri,direct`. -/
theorem test_movIndDirect : after { program [0xA6, 0x40] with iram := [(0x00, 0x50), (0x40, 0x0C)] }
    (fun t => (t.pc, t.a, t.psw, t.iramRead 0x50)) = some (0x02, 0x00, 0x00, 0x0C) := by decide

/-- VD24, `MOV @Ri,#data`. -/
theorem test_movIndImm : after (program [0x76, 0xAA])
    (fun t => (t.pc, t.a, t.psw, t.iramRead 0x00)) = some (0x02, 0x00, 0x00, 0xAA) := by decide

/-- VD25, `MOV DPTR,#data16`. -/
theorem test_movDptrImm : after (program [0x90, 0x12, 0x34])
    (fun t => (t.pc, t.a, t.psw, t.dptr)) = some (0x03, 0x00, 0x00, 0x1234) := by decide

/-- VD26, `MOVC A,@A+DPTR`. -/
theorem test_movcADptr : after { State.reset with a := 0x02, dptr := 0x0100, code := [(0x00, 0x93), (0x0102, 0x5B)], codeSize := 65536 }
    (fun t => (t.pc, t.a, t.psw)) = some (0x01, 0x5B, 0x01) := by decide

/-- VD29, `MOVC A,@A+DPTR`. -/
theorem test_movcADptr_2 : faults .memoryFault
    { State.reset with a := 0x00, dptr := 0x4000, code := [(0x00, 0x93)], codeSize := 9 } := by decide

/-- VD28, `MOVC A,@A+PC`. -/
theorem test_movcAPc : after { program [0x83, 0x00, 0xEE] with a := 0x01 }
    (fun t => (t.pc, t.a, t.psw)) = some (0x01, 0xEE, 0x00) := by decide

/-- VD30, `MOVX A,@Ri`. -/
theorem test_movxAInd : after { program [0xE2] with iram := [(0x00, 0x34)], xdata := [(0x34, 0x9A)] }
    (fun t => (t.pc, t.a, t.psw)) = some (0x01, 0x9A, 0x00) := by decide

/-- VD31, `MOVX A,@DPTR`. -/
theorem test_movxADptr : after { program [0xE0] with dptr := 0x1234, xdata := [(0x1234, 0x5E)] }
    (fun t => (t.pc, t.a, t.psw)) = some (0x01, 0x5E, 0x01) := by decide

/-- VD32, `MOVX @Ri,A`. -/
theorem test_movxIndA : after { program [0xF3] with a := 0x21, iram := [(0x01, 0xFF)] }
    (fun t => (t.pc, t.a, t.psw, t.xdata.read 0xFF)) = some (0x01, 0x21, 0x00, 0x21) := by decide

/-- VD33, `MOVX @DPTR,A`. -/
theorem test_movxDptrA : after { program [0xF0] with a := 0xC4, dptr := 0x8000 }
    (fun t => (t.pc, t.a, t.psw, t.xdata.read 0x8000)) = some (0x01, 0xC4, 0x00, 0xC4) := by decide

/-- VD34, `PUSH direct`. -/
theorem test_push : after { program [0xC0, 0x30] with iram := [(0x30, 0xAB)] }
    (fun t => (t.pc, t.a, t.psw, t.sp, t.iramRead 0x08)) = some (0x02, 0x00, 0x00, 0x08, 0xAB) := by decide

/-- VD35, `PUSH direct`. -/
theorem test_push_2 : faults .stackOverflow
    { program [0xC0, 0x30] with sp := 0xFF, iram := [(0x30, 0xAB)] } := by decide

/-- VD38, `POP direct`. -/
theorem test_pop : after { program [0xD0, 0x30] with sp := 0x08, iram := [(0x08, 0xCD)] }
    (fun t => (t.pc, t.a, t.psw, t.sp, t.iramRead 0x30)) = some (0x02, 0x00, 0x00, 0x07, 0xCD) := by decide

/-- VD39, `POP direct`. -/
theorem test_pop_2 : faults .stackUnderflow
    { program [0xD0, 0x30] with sp := 0x00 } := by decide

/-- VD42, `XCH A,Rn`. -/
theorem test_xchARn : after { program [0xC8] with a := 0x12, iram := [(0x00, 0x34)] }
    (fun t => (t.pc, t.a, t.psw, t.iramRead 0x00)) = some (0x01, 0x34, 0x01, 0x12) := by decide

/-- VD43, `XCH A,direct`. -/
theorem test_xchADirect : after { program [0xC5, 0x30] with a := 0x3F, iram := [(0x30, 0x75)] }
    (fun t => (t.pc, t.a, t.psw, t.iramRead 0x30)) = some (0x02, 0x75, 0x01, 0x3F) := by decide

/-- VD45, `XCH A,@Ri`. -/
theorem test_xchAInd : after { program [0xC6] with a := 0x3F, iram := [(0x00, 0x20), (0x20, 0x75)] }
    (fun t => (t.pc, t.a, t.psw, t.iramRead 0x20)) = some (0x01, 0x75, 0x01, 0x3F) := by decide

/-- VD46, `XCHD A,@Ri`. -/
theorem test_xchdAInd : after { program [0xD6] with a := 0x36, iram := [(0x00, 0x20), (0x20, 0x75)] }
    (fun t => (t.pc, t.a, t.psw, t.iramRead 0x20)) = some (0x01, 0x35, 0x00, 0x76) := by decide

/-! ## One step of each form of 43_boolean.md -/

/-- VB1, `CLR C`. -/
theorem test_clrC : after { program [0xC3] with psw := 0x85 }
    (fun t => (t.pc, t.a, t.psw)) = some (0x01, 0x00, 0x05) := by decide

/-- VB2, `CLR bit`. -/
theorem test_clrBit : after { program [0xC2, 0x0A] with iram := [(0x21, 0xFF)] }
    (fun t => (t.pc, t.a, t.psw, t.iramRead 0x21)) = some (0x02, 0x00, 0x00, 0xFB) := by decide

/-- VB5, `SETB C`. -/
theorem test_setbC : after (program [0xD3])
    (fun t => (t.pc, t.a, t.psw)) = some (0x01, 0x00, 0x80) := by decide

/-- VB6, `SETB bit`. -/
theorem test_setbBit : after (program [0xD2, 0x7F])
    (fun t => (t.pc, t.a, t.psw, t.iramRead 0x2F)) = some (0x02, 0x00, 0x00, 0x80) := by decide

/-- VB8, `CPL C`. -/
theorem test_cplC : after { program [0xB3] with psw := 0x80 }
    (fun t => (t.pc, t.a, t.psw)) = some (0x01, 0x00, 0x00) := by decide

/-- VB10, `CPL bit`. -/
theorem test_cplBit : after { program [0xB2, 0x00] with iram := [(0x20, 0x01)] }
    (fun t => (t.pc, t.a, t.psw, t.iramRead 0x20)) = some (0x02, 0x00, 0x00, 0x00) := by decide

/-- VB12, `ANL C,bit`. -/
theorem test_anlCBit : after { program [0x82, 0x08] with psw := 0x80 }
    (fun t => (t.pc, t.a, t.psw)) = some (0x02, 0x00, 0x00) := by decide

/-- VB14, `ANL C,/bit`. -/
theorem test_anlCNotBit : after { program [0xB0, 0x08] with psw := 0x80, iram := [(0x21, 0x01)] }
    (fun t => (t.pc, t.a, t.psw)) = some (0x02, 0x00, 0x00) := by decide

/-- VB16, `ORL C,bit`. -/
theorem test_orlCBit : after { program [0x72, 0xE0] with iram := [(0xE0, 0x01)] }
    (fun t => (t.pc, t.a, t.psw)) = some (0x02, 0x00, 0x80) := by decide

/-- VB18, `ORL C,/bit`. -/
theorem test_orlCNotBit : after { program [0xA0, 0xE0] with iram := [(0xE0, 0xFE)] }
    (fun t => (t.pc, t.a, t.psw)) = some (0x02, 0x00, 0x80) := by decide

/-- VB20, `MOV C,bit`. -/
theorem test_movCBit : after { program [0xA2, 0x33] with iram := [(0x26, 0x08)] }
    (fun t => (t.pc, t.a, t.psw)) = some (0x02, 0x00, 0x80) := by decide

/-- VB23, `MOV bit,C`. -/
theorem test_movBitC : after { program [0x92, 0x33] with psw := 0x80 }
    (fun t => (t.pc, t.a, t.psw, t.iramRead 0x26)) = some (0x02, 0x00, 0x80, 0x08) := by decide

/-- VB26, `JC rel`. -/
theorem test_jc : after { State.reset with pc := 0x0100, psw := 0x80, code := [(0x0100, 0x40), (0x0101, 0x05)], codeSize := 65536 }
    (fun t => (t.pc, t.a, t.psw)) = some (0x0107, 0x00, 0x80) := by decide

/-- VB28, `JNC rel`. -/
theorem test_jnc : after { State.reset with pc := 0x0100, code := [(0x0100, 0x50), (0x0101, 0xFE)], codeSize := 65536 }
    (fun t => (t.pc, t.a, t.psw)) = some (0x0100, 0x00, 0x00) := by decide

/-- VB30, `JB bit,rel`. -/
theorem test_jb : after { State.reset with pc := 0x0200, iram := [(0x20, 0x01)], code := [(0x0200, 0x20), (0x0202, 0x10)], codeSize := 65536 }
    (fun t => (t.pc, t.a, t.psw)) = some (0x0213, 0x00, 0x00) := by decide

/-- VB33, `JNB bit,rel`. -/
theorem test_jnb : after { program [0x30, 0x07, 0x7F] with iram := [(0x20, 0x7F)] }
    (fun t => (t.pc, t.a, t.psw)) = some (0x82, 0x00, 0x00) := by decide

/-- VB35, `JBC bit,rel`. -/
theorem test_jbc : after { State.reset with pc := 0x0300, iram := [(0x21, 0x80)], code := [(0x0300, 0x10), (0x0301, 0x0F), (0x0302, 0x80)], codeSize := 65536 }
    (fun t => (t.pc, t.a, t.psw, t.iramRead 0x21)) = some (0x0283, 0x00, 0x00, 0x00) := by decide

/-- VB38, `JBC bit,rel`. -/
theorem test_jbc_2 : after { program [0x10, 0x90, 0x02] with inReg := [0x90], inputs := [0xFE], outReg := [0x90] }
    (fun t => (t.pc, t.a, t.psw, t.trace)) = some (0x03, 0x00, 0x00, [.input 0x90 0xFE]) := by decide

/-! ## One step of each form of 44_control_transfer.md -/

/-- VC1, `ACALL addr11`. -/
theorem test_acall : after { State.reset with pc := 0x0100, code := [(0x0100, 0x71), (0x0101, 0x45)], codeSize := 65536 }
    (fun t => (t.pc, t.a, t.psw, t.sp, t.iramRead 0x08, t.iramRead 0x09)) = some (0x0345, 0x00, 0x00, 0x09, 0x02, 0x01) := by decide

/-- VC3, `ACALL addr11`. -/
theorem test_acall_2 : faults .stackOverflow
    { program [0x11, 0x00] with sp := 0xFE } := by decide

/-- VC5, `LCALL addr16`. -/
theorem test_lcall : after { State.reset with pc := 0x0100, code := [(0x0100, 0x12), (0x0101, 0x12), (0x0102, 0x34)], codeSize := 65536 }
    (fun t => (t.pc, t.a, t.psw, t.sp, t.iramRead 0x08, t.iramRead 0x09)) = some (0x1234, 0x00, 0x00, 0x09, 0x03, 0x01) := by decide

/-- VC6, `LCALL addr16`. -/
theorem test_lcall_2 : faults .stackOverflow
    { program [0x12, 0x12, 0x34] with sp := 0xFF } := by decide

/-- VC7, `RET`. -/
theorem test_ret : after { State.reset with pc := 0x1234, sp := 0x09, iram := [(0x08, 0x03), (0x09, 0x01)], code := [(0x1234, 0x22)], codeSize := 65536 }
    (fun t => (t.pc, t.a, t.psw, t.sp)) = some (0x0103, 0x00, 0x00, 0x07) := by decide

/-- VC8, `RET`. -/
theorem test_ret_2 : faults .stackUnderflow
    { program [0x22] with sp := 0x01 } := by decide

/-- VC10, `RETI`. -/
theorem test_reti : after { State.reset with pc := 0x1234, sp := 0x09, iram := [(0x08, 0x03), (0x09, 0x01)], code := [(0x1234, 0x32)], codeSize := 65536 }
    (fun t => (t.pc, t.a, t.psw, t.sp)) = some (0x0103, 0x00, 0x00, 0x07) := by decide

/-- VC12, `AJMP addr11`. -/
theorem test_ajmp : after (program [0xE1, 0xFF])
    (fun t => (t.pc, t.a, t.psw)) = some (0x07FF, 0x00, 0x00) := by decide

/-- VC16, `LJMP addr16`. -/
theorem test_ljmp : after (program [0x02, 0xAB, 0xCD])
    (fun t => (t.pc, t.a, t.psw)) = some (0xABCD, 0x00, 0x00) := by decide

/-- VC17, `SJMP rel`. -/
theorem test_sjmp : after { State.reset with pc := 0x10, code := [(0x10, 0x80), (0x11, 0xFE)], codeSize := 65536 }
    (fun t => (t.pc, t.a, t.psw)) = some (0x10, 0x00, 0x00) := by decide

/-- VC20, `JMP @A+DPTR`. -/
theorem test_jmpADptr : after { program [0x73] with a := 0x04, dptr := 0x2000 }
    (fun t => (t.pc, t.a, t.psw)) = some (0x2004, 0x04, 0x00) := by decide

/-- VC22, `JZ rel`. -/
theorem test_jz : after { State.reset with pc := 0x0100, code := [(0x0100, 0x60), (0x0101, 0x03)], codeSize := 65536 }
    (fun t => (t.pc, t.a, t.psw)) = some (0x0105, 0x00, 0x00) := by decide

/-- VC24, `JNZ rel`. -/
theorem test_jnz : after { State.reset with pc := 0x0100, a := 0x01, psw := 0x01, code := [(0x0100, 0x70), (0x0101, 0xFC)], codeSize := 65536 }
    (fun t => (t.pc, t.a, t.psw)) = some (0xFE, 0x01, 0x01) := by decide

/-- VC26, `CJNE A,direct,rel`. -/
theorem test_cjneADirect : after { State.reset with pc := 0x0100, a := 0x34, psw := 0x01, iram := [(0x30, 0x56)], code := [(0x0100, 0xB5), (0x0101, 0x30), (0x0102, 0x05)], codeSize := 65536 }
    (fun t => (t.pc, t.a, t.psw)) = some (0x0108, 0x34, 0x81) := by decide

/-- VC28, `CJNE A,#data,rel`. -/
theorem test_cjneAImm : after { program [0xB4, 0x10, 0x02] with a := 0x20, psw := 0x81 }
    (fun t => (t.pc, t.a, t.psw)) = some (0x05, 0x20, 0x01) := by decide

/-- VC29, `CJNE A,#data,rel`. -/
theorem test_cjneAImm_2 : after { program [0xB4, 0x10, 0x02] with a := 0x0F }
    (fun t => (t.pc, t.a, t.psw)) = some (0x05, 0x0F, 0x80) := by decide

/-- VC30, `CJNE Rn,#data,rel`. -/
theorem test_cjneRnImm : after { State.reset with pc := 0x0100, iram := [(0x07, 0x5F)], code := [(0x0100, 0xBF), (0x0101, 0x60), (0x0102, 0xFD)], codeSize := 65536 }
    (fun t => (t.pc, t.a, t.psw)) = some (0x0100, 0x00, 0x80) := by decide

/-- VC32, `CJNE @Ri,#data,rel`. -/
theorem test_cjneIndImm : after { program [0xB7, 0x00, 0x08] with iram := [(0x01, 0x40), (0x40, 0x01)] }
    (fun t => (t.pc, t.a, t.psw)) = some (0x0B, 0x00, 0x00) := by decide

/-- VC34, `DJNZ Rn,rel`. -/
theorem test_djnzRn : after { State.reset with pc := 0x0100, iram := [(0x02, 0x02)], code := [(0x0100, 0xDA), (0x0101, 0xFE)], codeSize := 65536 }
    (fun t => (t.pc, t.a, t.psw, t.iramRead 0x02)) = some (0x0100, 0x00, 0x00, 0x01) := by decide

/-- VC36, `DJNZ Rn,rel`. -/
theorem test_djnzRn_2 : after { State.reset with pc := 0x0100, psw := 0x84, code := [(0x0100, 0xDA), (0x0101, 0xFE)], codeSize := 65536 }
    (fun t => (t.pc, t.a, t.psw, t.iramRead 0x02)) = some (0x0100, 0x00, 0x84, 0xFF) := by decide

/-- VC37, `DJNZ direct,rel`. -/
theorem test_djnzDirect : after { State.reset with pc := 0x0100, iram := [(0x40, 0x01)], code := [(0x0100, 0xD5), (0x0101, 0x40), (0x0102, 0x10)], codeSize := 65536 }
    (fun t => (t.pc, t.a, t.psw, t.iramRead 0x40)) = some (0x0103, 0x00, 0x00, 0x00) := by decide

/-- VC40, `NOP`. -/
theorem test_nop : after { program [0x00] with a := 0x12, b := 0x55, psw := 0xFE, sp := 0x33, dptr := 0xAAAA }
    (fun t => (t.pc, t.a, t.psw)) = some (0x01, 0x12, 0xFE) := by decide

/-- VC42, `(reserved)`. -/
theorem test_reserved : faults .unknownOpcode
    { program [0xA5] with a := 0x12, psw := 0xFE } := by decide

/-- MOVX at XDATA_SIZE, the least address outside (`20_memory.md` R63). -/
theorem test_movx_bound :
    faults .memoryFault { program [0xE0] with dptr := 0x0100, xdataSize := 0x100 } ∧
    after { program [0xE0] with dptr := 0x00FF, xdataSize := 0x100 } (fun t => t.pc) = some 0x0001 := by decide

/-- The conventions of `70_reset_and_hazards.md` R356: the idle loop ends a run and the end state is the
state at that point, a fault ends it, and the step budget is a third outcome. -/
theorem test_run_conventions :
    (runHost endsAtIdleLoop .stop 5 (program [0x04, 0x80, 0xFE])).ending = .ended ∧
    (runHost endsAtIdleLoop .stop 5 (program [0x04, 0x80, 0xFE])).final.pc = 0x0001 ∧
    (runHost endsAtIdleLoop .stop 5 (program [0x04, 0xA5])).ending = .faulted .unknownOpcode ∧
    (runHost endsAtIdleLoop .stop 5 (program [0x02, 0x00, 0x00])).ending = .budget := by decide

/-- RUN_END and HOST_ON_FAULT are the host's (`92_eei_decisions.md`, open parameters): a host need not stop
at the idle loop ("may stop"), may stop after any step, and may go on after a fault. -/
theorem test_run_parameters :
    (runHost neverEnds .stop 5 (program [0x80, 0xFE])).ending = .budget ∧
    (runHost (fun run => run.length == 2) .stop 5 (program [0x04, 0x04, 0x04])).final.a = 0x02 ∧
    ((runHost neverEnds .continue 2 (program [0xA5])).run.map StepRecord.status) =
      [some .unknownOpcode, some .unknownOpcode] := by decide

/-! ## Witnesses: a state and operands that meet the hypotheses of each statement -/

/-- A legal state with both kinds of callback at both ends of the window. -/
def demo : State :=
  { program [0x00] with iram := [(0x20, 0x81)], inReg := [0x80, 0xFF], outReg := [0x80, 0xFF], inputs := [0x5A] }

theorem demo_legal : demo.Legal := by unfold State.Legal; decide

/-- A legal state with the given stack pointer. -/
def demoSp (sp : Byte) : State := { demo with sp := sp }

theorem demoSp_legal (sp : Byte) : (demoSp sp).Legal := demo_legal

theorem completes_of {r : Result} (h : statusCode r = some 0) : ∃ t, r = .next t := by
  cases r with
  | next t => exact ⟨t, rfl⟩
  | fault f => cases f <;> simp [statusCode, Fault.code] at h
  | refused x => simp [statusCode] at h

theorem witness_DecodedBytesAreTheEncoding :
    ∃ rest, decode [0x24, 0x9C, 0x63] = .ok (.addAImm 0x9C, rest) := ⟨[0x63], decode_two (by decide) _ _⟩

theorem witness_StepRunsTheDecodedInstruction :
    (program [0x75, 0x90, 0xA5]).CodeAtPc (encode (.movDirectImm 0x90 0xA5)) ∧
    ∃ rest, decode [0x75, 0x90, 0xA5] = .ok (.movDirectImm 0x90 0xA5, rest) :=
  ⟨by unfold State.CodeAtPc; decide, [], decode_three (by decide) _ _ _⟩

/-- The opcode byte at CODE_SIZE; the operand byte at CODE_SIZE; opcode 0xA5 as the last byte; a check that
fails; a check that does not. -/
theorem witness_StepStatusFollowsTheCheckOrder :
    ({ program [0x24] with pc := 1 }.pc.toNat ≥ { program [0x24] with pc := 1 }.codeSize) ∧
    ((program [0x24]).pc.toNat < (program [0x24]).codeSize ∧
      (program [0x24]).pc.toNat + (opcodeLength ((program [0x24]).code.read 0) - 1) ≥ (program [0x24]).codeSize) ∧
    ((program [0xA5]).pc.toNat + (opcodeLength ((program [0xA5]).code.read 0) - 1) < (program [0xA5]).codeSize ∧
      (program [0xA5]).code.read 0 = 0xA5) ∧
    (decodeBytes 0xC0 0x30 0x00).check { program [0xC0, 0x30] with sp := 0xFF } = some .stackOverflow ∧
    (decodeBytes 0xC0 0x30 0x00).check { program [0xC0, 0x30] with sp := 0xFE } = none := by decide

/-- Each check at the last value it passes and the first it stops. -/
theorem witness_ExecCompletesUnlessItsCheckFails :
    ((Instr.push 0).check (demoSp 0xFE) = none ∧ (Instr.push 0).check (demoSp 0xFF) = some .stackOverflow) ∧
    ((Instr.acall 0).check (demoSp 0xFD) = none ∧ (Instr.acall 0).check (demoSp 0xFE) = some .stackOverflow) ∧
    ((Instr.lcall 0).check (demoSp 0xFD) = none ∧ (Instr.lcall 0).check (demoSp 0xFE) = some .stackOverflow) ∧
    ((Instr.pop 0).check (demoSp 0x01) = none ∧ (Instr.pop 0).check (demoSp 0x00) = some .stackUnderflow) ∧
    (Instr.ret.check (demoSp 0x02) = none ∧ Instr.ret.check (demoSp 0x01) = some .stackUnderflow) ∧
    (Instr.reti.check (demoSp 0x02) = none ∧ Instr.reti.check (demoSp 0x01) = some .stackUnderflow) ∧
    (Instr.movcADptr.check demo = none ∧ Instr.movcADptr.check { demo with a := 1 } = some .memoryFault) ∧
    (Instr.movxADptr.check { demo with xdataSize := 1 } = none ∧
      Instr.movxADptr.check { demo with xdataSize := 0 } = some .memoryFault) ∧
    Instr.reserved.check demo = some .unknownOpcode := by decide

theorem witness_UnknownOpcodeOnlyFromA5 :
    ((program [0xA5]).pc.toNat < (program [0xA5]).codeSize ∧
      (program [0xA5]).code.read (program [0xA5]).pc.toNat = 0xA5) ∧ faults .unknownOpcode (program [0xA5]) := by
  decide

theorem witness_ResetStatesAreLegal : demo.Legal ∧ Memory.wf [(0xFF, 0x01)] ∧ Memory.below 256 [(0xFF, 0x01)] :=
  ⟨demo_legal, by decide, by decide⟩

theorem witness_StepKeepsStatesLegal : demo.Legal ∧ ∃ t, step demo = .next t :=
  ⟨demo_legal, completes_of (by decide)⟩

/-- From a state with parity, and from a launch state without it. -/
theorem witness_StepKeepsParity :
    ((program [0x04]).ParityHolds ∧ ∃ t, step (program [0x04]) = .next t) ∧
    (¬{ program [0x00] with psw := 0x01 }.ParityHolds ∧ ∃ t, step { program [0x00] with psw := 0x01 } = .next t) :=
  ⟨⟨by decide, completes_of (by decide)⟩, by decide, completes_of (by decide)⟩

/-- MUL changes B, PUSH SP, INC DPTR DPTR, MOVX XDATA. -/
theorem witness_RegistersChangeOnlyInTheirInstructions :
    after { program [0xA4] with a := 0xC8, b := 0xC8 } (fun t => t.b ≠ 0xC8) = some True ∧
    after (program [0xC0, 0x30]) (fun t => t.sp ≠ 0x07) = some True ∧
    after (program [0xA3]) (fun t => t.dptr ≠ 0x0000) = some True ∧
    after { program [0xF0] with a := 0x01 } (fun t => t.xdata ≠ []) = some True := by
  refine ⟨?_, ?_, ?_, ?_⟩ <;>
    exact congrArg some (eq_true (by decide))

theorem witness_PcAdvancesByTheLength :
    Instr.transfers .nop = false ∧ ∃ t, exec .nop { demo with pc := 0xFFFF } = .next t :=
  ⟨by decide, completes_of (by decide)⟩

theorem witness_AtMostOneInputThenOneOutput : ∃ t, exec (.incDirect 0x80) demo = .next t :=
  completes_of (by decide)

theorem witness_RegisterAndIndirectAddressing : demo.Legal := demo_legal
theorem witness_RegistersOfABankDiffer : demo.regAddr 7 = demo.regAddr 7 := rfl

/-- Both ends of the window with a callback, its first address without one, the last address below it. -/
theorem witness_RoutedReadGoesToThePortOrIram :
    ((0x80 : Byte) ≤ 0x80 ∧ (0x80 : Byte) ∈ demo.inReg) ∧ ((0x80 : Byte) ≤ 0xFF ∧ (0xFF : Byte) ∈ demo.inReg) ∧
    demo.inputs = 0x5A :: [] ∧ ¬((0x80 : Byte) ≤ 0x80 ∧ (0x80 : Byte) ∈ State.reset.inReg) ∧
    ¬((0x80 : Byte) ≤ 0x7F ∧ (0x7F : Byte) ∈ demo.inReg) := by decide

theorem witness_RoutedWriteGoesToThePortOrIram :
    demo.Legal ∧ ((0x80 : Byte) ≤ 0x80 ∧ (0x80 : Byte) ∈ demo.outReg) ∧
    ((0x80 : Byte) ≤ 0xFF ∧ (0xFF : Byte) ∈ demo.outReg) ∧ ¬((0x80 : Byte) ≤ 0x7F ∧ (0x7F : Byte) ∈ demo.outReg) :=
  ⟨demo_legal, by decide⟩

theorem witness_BitOperandsAreBitsOfRoutedBytes : (0x7F : Byte).toNat < 128 ∧ 128 ≤ (0x80 : Byte).toNat := by
  decide

/-- A low and a high bit address outside the callbacks, the same and another bit read back. -/
theorem witness_BitWriteChangesOneBit :
    demo.Legal ∧ (demo.readsPort (bitByte 0x7F) = false ∧ demo.writesPort (bitByte 0x7F) = false) ∧
    (demo.readsPort (bitByte 0x88) = false ∧ demo.writesPort (bitByte 0x88) = false) ∧
    demo.readsPort (bitByte 0x00) = false := ⟨demo_legal, by decide⟩

theorem witness_PushByteThenPopByte :
    ((demoSp 0xFF).Legal ∧ (demoSp 0xFF).sp = 0xFF) ∧ ((demoSp 0x00).Legal ∧ (demoSp 0x00).sp = 0x00) ∧
    ((demoSp 0x01).Legal ∧ (demoSp 0x01).sp ≠ 0x00) ∧ ((demoSp 0xFE).Legal ∧ (demoSp 0xFE).sp ≠ 0xFF) :=
  ⟨⟨demo_legal, by decide⟩, ⟨demo_legal, by decide⟩, ⟨demo_legal, by decide⟩, demo_legal, by decide⟩

theorem witness_PushWordThenPopWord :
    ((demoSp 0xFE).Legal ∧ (demoSp 0xFE).sp.toNat ≥ 0xFE) ∧ ((demoSp 0x01).Legal ∧ (demoSp 0x01).sp.toNat ≤ 0x01) ∧
    ((demoSp 0x02).Legal ∧ (demoSp 0x02).sp.toNat > 0x01) ∧ ((demoSp 0xFD).Legal ∧ (demoSp 0xFD).sp.toNat < 0xFE) :=
  ⟨⟨demo_legal, by decide⟩, ⟨demo_legal, by decide⟩, ⟨demo_legal, by decide⟩, demo_legal, by decide⟩

theorem witness_IncDecOfRegisterAndIndirect : demo.Legal := demo_legal
theorem witness_IncDecOfDirect : demo.Legal := demo_legal
theorem witness_DivResult : demo.b = 0 ∧ { demo with b := 1 }.b ≠ 0 := by decide

theorem witness_DaCorrectsBcdAddition : Claims.isBcd 0x99 ∧ Claims.isBcd 0x00 := by
  unfold Claims.isBcd; decide

theorem witness_LogicalToDirect : demo.Legal := demo_legal
theorem witness_MovToRegister : demo.Legal := demo_legal
theorem witness_MovToDirect : demo.Legal := demo_legal
theorem witness_MovToIndirect : demo.Legal := demo_legal

/-- CODE has one byte: offset 0 is inside, offset 1 is not, for both forms. -/
theorem witness_MovcReadsCode :
    ({ demo with a := 1 }.a.toNat + demo.dptr.toNat) % 65536 ≥ demo.codeSize ∧
    (demo.a.toNat + demo.dptr.toNat) % 65536 < demo.codeSize ∧
    (demo.a.toNat + (demo.pc.toNat + 1)) % 65536 ≥ demo.codeSize ∧
    ({ demo with a := 0xFF }.a.toNat + ({ demo with pc := 0xFF00 }.pc.toNat + 1)) % 65536 < demo.codeSize := by
  decide

theorem witness_MovxReadsXdata :
    ((demo.ptr 0).toNat ≥ { demo with xdataSize := 0 }.xdataSize) ∧
    ((demo.ptr 0).toNat < { demo with xdataSize := 1 }.xdataSize) ∧
    (demo.dptr.toNat ≥ { demo with xdataSize := 0 }.xdataSize) ∧
    (demo.dptr.toNat < { demo with xdataSize := 1 }.xdataSize) := by decide

theorem witness_MovxWritesXdata :
    State.Legal { demo with xdataSize := 0 } ∧ State.Legal { demo with xdataSize := 1 } ∧
    ((demo.ptr 0).toNat ≥ 0 ∧ (demo.ptr 0).toNat < 1) ∧ (demo.dptr.toNat ≥ 0 ∧ demo.dptr.toNat < 1) :=
  ⟨by unfold State.Legal; decide, by unfold State.Legal; decide, by decide⟩

theorem witness_PushAndPopResults :
    ((demoSp 0xFF).Legal ∧ (demoSp 0xFF).sp = 0xFF) ∧ ((demoSp 0xFE).Legal ∧ (demoSp 0xFE).sp ≠ 0xFF) ∧
    ((demoSp 0x00).Legal ∧ (demoSp 0x00).sp = 0x00) ∧ ((demoSp 0x01).Legal ∧ (demoSp 0x01).sp ≠ 0x00) :=
  ⟨⟨demo_legal, by decide⟩, ⟨demo_legal, by decide⟩, ⟨demo_legal, by decide⟩, demo_legal, by decide⟩

theorem witness_ExchangeResults : demo.Legal := demo_legal
theorem witness_BitWriteResults : demo.Legal := demo_legal

theorem witness_CarryAndBitResults : true = (demo.dRead (bitByte 0x07)).1.getLsbD ((0x07 : Byte).toNat % 8) := by
  decide

theorem witness_CarryAndBitJumps : false = (demo.dRead (bitByte 0x06)).1.getLsbD ((0x06 : Byte).toNat % 8) := by
  decide

theorem witness_TestAndClearJump :
    demo.Legal ∧ (demo.dRead (bitByte 0x07)).1.getLsbD ((0x07 : Byte).toNat % 8) = true ∧
    (demo.dRead (bitByte 0x06)).1.getLsbD ((0x06 : Byte).toNat % 8) = false := ⟨demo_legal, by decide⟩

theorem witness_CallResults :
    ((demoSp 0xFE).Legal ∧ (demoSp 0xFE).sp.toNat ≥ 0xFE) ∧ ((demoSp 0xFD).Legal ∧ (demoSp 0xFD).sp.toNat < 0xFE) :=
  ⟨⟨demo_legal, by decide⟩, demo_legal, by decide⟩

theorem witness_ReturnResults : (demoSp 0x01).sp.toNat ≤ 0x01 ∧ (demoSp 0x02).sp.toNat > 0x01 := by decide

theorem witness_CallThenReturnComesBack :
    (demoSp 0xFD).Legal ∧ (demoSp 0xFD).sp.toNat < 0xFE ∧
    ((∃ a, Instr.acall 0 = .acall a) ∨ ∃ a, Instr.acall 0 = .lcall a) ∧ (Instr.ret = .ret ∨ Instr.ret = .reti) :=
  ⟨demo_legal, by decide, .inl ⟨0, rfl⟩, .inl rfl⟩

theorem witness_SelfJumpIsAFixedPoint : (program [0x80, 0xFE]).CodeAtPc [0x80, 0xFE] := by
  unfold State.CodeAtPc; decide

theorem witness_DecrementJumps : demo.Legal := demo_legal

end Sys2Proof.Tests
end

section
/-! PROOFS. The statements about the whole state: what every step keeps (O12, O13). Both go through
`step_chain`: a property that each primitive update keeps is kept by a step. -/
namespace Sys2Proof.Machine

variable {s : State}

/-! ## Each remaining primitive update keeps a legal state legal -/

theorem State.Legal.portIn (h : s.Legal) (d : Byte) : (s.portIn d).2.Legal := h.of_same rfl rfl rfl rfl rfl rfl rfl
theorem State.Legal.portOut (h : s.Legal) (d v : Byte) : (s.portOut d v).Legal := h.of_same rfl rfl rfl rfl rfl rfl rfl
theorem State.Legal.setB (h : s.Legal) (v : Byte) : (s.setB v).Legal := h.of_same rfl rfl rfl rfl rfl rfl rfl
theorem State.Legal.setSp (h : s.Legal) (v : Byte) : (s.setSp v).Legal := h.of_same rfl rfl rfl rfl rfl rfl rfl
theorem State.Legal.setDptr (h : s.Legal) (v : Word) : (s.setDptr v).Legal := h.of_same rfl rfl rfl rfl rfl rfl rfl

/-- Every chain of primitive updates keeps a legal state legal. -/
theorem Chain.legal {t : State} (c : Chain s t) (h : s.Legal) : t.Legal :=
  c.keeps (P := State.Legal)
    (jump := fun _ w hu => hu.jump w)
    (writeA := fun _ v hu => hu.writeA v)
    (setPswBit := fun _ k v _ hu => hu.setPswBit k v)
    (iramWrite := fun _ d v hu => hu.iramWrite d v)
    (portIn := fun _ d _ hu => hu.portIn d)
    (portOut := fun _ d v _ hu => hu.portOut d v)
    (setB := fun _ v hu => hu.setB v)
    (setSp := fun _ v hu => hu.setSp v)
    (setDptr := fun _ v hu => hu.setDptr v)
    (setXdata := fun _ n v hn hu => hu.setXdata n v hn)
    h

/-! ## A and P across a chain -/

/-- P is the parity of A, or neither of them has changed since `s`. -/
def ParityOrKept (s t : State) : Prop := t.p = parity t.a ∨ (t.p = s.p ∧ t.a = s.a)

/-- CY, AC and OV are not P. -/
theorem State.setPswBit_p (s : State) (k : Nat) (v : Bool) (hk : k = 7 ∨ k = 6 ∨ k = 2) :
    (s.setPswBit k v).p = s.p := by
  rw [State.p, State.setPswBit_bit s k 0 v (by omega), if_neg (by omega), State.p]

/-- Only `writeA` writes A or P, and it writes both. -/
theorem Chain.parityOrKept {t : State} (c : Chain s t) : ParityOrKept s t :=
  c.keeps (P := ParityOrKept s)
    (jump := fun _ _ hu => hu)
    (writeA := fun u v _ => .inl (u.writeA_p v))
    (setPswBit := fun u k v hk hu => by
      unfold ParityOrKept
      rw [u.setPswBit_p k v hk]
      exact hu)
    (iramWrite := fun _ _ _ hu => hu)
    (portIn := fun _ _ _ hu => hu)
    (portOut := fun _ _ _ _ hu => hu)
    (setB := fun _ _ hu => hu)
    (setSp := fun _ _ hu => hu)
    (setDptr := fun _ _ hu => hu)
    (setXdata := fun _ _ _ _ hu => hu)
    (.inr ⟨rfl, rfl⟩)

theorem ParityOrKept.parityHolds {t : State} (h : ParityOrKept s t) (hs : s.ParityHolds) : t.ParityHolds := by
  rcases h with hp | ⟨hp, ha⟩
  · exact hp
  · rw [State.ParityHolds, hp, ha, hs]

end Sys2Proof.Machine

namespace Sys2Proof.Proofs
open Sys2Proof.Machine

/-- Settles O12: a step is a chain of primitive updates, and each of them keeps a legal state legal. -/
theorem stepKeepsStatesLegal : Obligations.StepKeepsStatesLegal :=
  fun _ _ hs h => (step_chain h).legal hs

/-- Settles O13: whatever a chain does, P is the parity of A afterwards or both are as they were. -/
theorem stepKeepsParity : Obligations.StepKeepsParity := by
  refine ⟨fun s t hs h => ?_, fun iram s => ?_, fun s t h => ?_⟩
  · exact (step_chain h).parityOrKept.parityHolds hs
  · show (0x00 : Byte).getLsbD 0 = parity 0x00
    decide
  · exact (step_chain h).parityOrKept

end Sys2Proof.Proofs
end

section
/-! PROOFS. Which instruction writes which register, and where PC goes (O14, O16): said once for every
instruction in `exec_writtenBy` and `exec_pc`. That no address names a core register (O15). -/
namespace Sys2Proof.Machine

variable {s t : State}

/-! ## What every chain keeps -/

/-- F0, RS1, RS0 and F1 stand at positions no update of PSW names. -/
theorem Chain.psw_bit (c : Chain s t) {k : Nat} (hk : k = 5 ∨ k = 4 ∨ k = 3 ∨ k = 1) :
    t.psw.getLsbD k = s.psw.getLsbD k :=
  c.keeps (P := fun u => u.psw.getLsbD k = s.psw.getLsbD k)
    (jump := fun _ _ hu => hu)
    (writeA := fun u v hu => by rw [u.writeA_bit v k, if_neg (by omega), hu])
    (setPswBit := fun u j v hj hu => by rw [u.setPswBit_bit j k v (by omega), if_neg (by omega), hu])
    (iramWrite := fun _ _ _ hu => hu)
    (portIn := fun _ _ _ hu => hu)
    (portOut := fun _ _ _ _ hu => hu)
    (setB := fun _ _ hu => hu)
    (setSp := fun _ _ hu => hu)
    (setDptr := fun _ _ hu => hu)
    (setXdata := fun _ _ _ _ hu => hu)
    rfl

/-- CODE itself, both sizes and the registry are as before. -/
def PlatformSame (s t : State) : Prop :=
  t.code = s.code ∧ t.codeSize = s.codeSize ∧ t.xdataSize = s.xdataSize ∧ t.inReg = s.inReg ∧ t.outReg = s.outReg

/-- No update writes CODE, a size or the registry. -/
theorem Chain.platformSame (c : Chain s t) : PlatformSame s t :=
  c.keeps (P := PlatformSame s)
    (jump := fun _ _ hu => hu)
    (writeA := fun _ _ hu => hu)
    (setPswBit := fun _ _ _ _ hu => hu)
    (iramWrite := fun _ _ _ hu => hu)
    (portIn := fun _ _ _ hu => hu)
    (portOut := fun _ _ _ _ hu => hu)
    (setB := fun _ _ hu => hu)
    (setSp := fun _ _ hu => hu)
    (setDptr := fun _ _ hu => hu)
    (setXdata := fun _ _ _ _ hu => hu)
    ⟨rfl, rfl, rfl, rfl, rfl⟩

/-! ## What each instruction writes of B, SP, DPTR, XDATA and PC -/

@[simp] theorem State.bitWrite_eq (s : State) (b : Byte) (v : Bool) :
    s.bitWrite b v =
      (s.dRead (bitByte b)).2.dWrite (bitByte b) (setBit (s.dRead (bitByte b)).1 (bitPos b) v) := rfl

@[simp] theorem State.compareJump_eq (s : State) (x y e : Byte) : s.compareJump x y e =
    (s.setPswBit 7 (decide (x < y))).branch (decide (x ≠ y)) (s.relTarget 3 e) 3 := rfl

/-- The next state of an instruction whose meaning is one check, then one state. -/
theorem next_of_unless {c : Prop} [Decidable c] {f : Fault} {u : State}
    (h : (if c then .fault f else .next u : Result) = .next t) : t = u := by
  split at h
  · cases h
  · cases h; rfl

/-- B, SP, DPTR and XDATA are as before. -/
def Unwritten (s t : State) : Prop := t.b = s.b ∧ t.sp = s.sp ∧ t.dptr = s.dptr ∧ t.xdata = s.xdata

/-- B, SP, DPTR and XDATA differ only if `i` is one of the instructions that write them. -/
def WrittenBy (i : Instr) (s t : State) : Prop :=
  (t.b ≠ s.b → i = .mulAB ∨ i = .divAB) ∧
  (t.sp ≠ s.sp → (∃ d, i = .push d) ∨ (∃ d, i = .pop d) ∨ (∃ a, i = .acall a) ∨ (∃ a, i = .lcall a) ∨
    i = .ret ∨ i = .reti) ∧
  (t.dptr ≠ s.dptr → (∃ k, i = .movDptrImm k) ∨ i = .incDptr) ∧
  (t.xdata ≠ s.xdata → (∃ j, i = .movxIndA j) ∨ i = .movxDptrA)

theorem Unwritten.writtenBy {i : Instr} (h : Unwritten s t) : WrittenBy i s t := by
  obtain ⟨hb, hsp, hdptr, hxdata⟩ := h
  exact ⟨absurd hb, absurd hsp, absurd hdptr, absurd hxdata⟩

/-- The writers of a register or of XDATA by name; every other meaning is a chain of updates that leave all
four alone. -/
theorem exec_writtenBy {i : Instr} (h : exec i s = .next t) : WrittenBy i s t := by
  cases i with
  | mulAB | divAB | movDptrImm | incDptr =>
    cases h
    simp [WrittenBy]
  | push d =>
    obtain rfl := next_of_unless ((execPush_eq d s).symm.trans h)
    simp [WrittenBy]
  | pop d =>
    obtain rfl := next_of_unless ((execPop_eq d s).symm.trans h)
    simp [WrittenBy]
  | acall | lcall =>
    obtain ⟨u, hu, hn⟩ := orRaise_eq_next h
    obtain ⟨-, rfl⟩ := (State.pushWord_ok_iff ..).1 hu
    cases hn
    simp [WrittenBy]
  | ret | reti =>
    obtain ⟨r, hr, hn⟩ := orRaise_eq_next h
    obtain ⟨-, rfl⟩ := (State.popWord_ok_iff ..).1 hr
    cases hn
    simp [WrittenBy]
  | movxIndA | movxDptrA =>
    obtain ⟨u, hu, hn⟩ := orRaise_eq_next h
    obtain ⟨-, rfl⟩ := (State.xdataWrite_ok_iff ..).1 hu
    cases hn
    simp [WrittenBy]
  | movcADptr | movcAPc | movxAInd | movxADptr =>
    obtain ⟨v, -, hn⟩ := orRaise_eq_next h
    cases hn
    exact Unwritten.writtenBy (by simp [Unwritten])
  | jbc =>
    simp only [exec, execJbc] at h
    split at h <;> cases h <;> exact Unwritten.writtenBy (by simp [Unwritten])
  | reserved => cases h
  | _ =>
    cases h
    exact Unwritten.writtenBy (by simp [Unwritten])

/-- The sequential advance over updates that leave PC alone. -/
theorem State.advance_pc {u : State} (h : u.pc = s.pc) (len : Nat) : (u.advance len).pc = s.pcNext len := by
  rw [State.advance_eq, State.jump_pc, State.pcNext, State.pcNext, h]

/-- Every meaning but a transfer ends in the advance by its length, and nothing before it writes PC. -/
theorem exec_pc {i : Instr} (hi : i.transfers = false) (h : exec i s = .next t) : t.pc = s.pcNext i.length := by
  cases i with
  | acall | lcall | ret | reti | ajmp | ljmp | sjmp | jmpADptr | jz | jnz | cjneADirect | cjneAImm | cjneRnImm
  | cjneIndImm | djnzRn | djnzDirect | jc | jnc | jb | jnb | jbc => cases hi
  | push d =>
    obtain rfl := next_of_unless ((execPush_eq d s).symm.trans h)
    exact State.advance_pc (by simp) _
  | pop d =>
    obtain rfl := next_of_unless ((execPop_eq d s).symm.trans h)
    exact State.advance_pc (by simp) _
  | movxIndA | movxDptrA =>
    obtain ⟨u, hu, hn⟩ := orRaise_eq_next h
    obtain ⟨-, rfl⟩ := (State.xdataWrite_ok_iff ..).1 hu
    cases hn
    exact State.advance_pc (by simp) _
  | movcADptr | movcAPc | movxAInd | movxADptr =>
    obtain ⟨v, -, hn⟩ := orRaise_eq_next h
    cases hn
    exact State.advance_pc (by simp) _
  | reserved => cases h
  | _ =>
    cases h
    exact State.advance_pc (by simp) _

/-! ## Routed access sees no core register -/

/-- The byte a direct read gives depends on IRAM, InReg and the free input alone. -/
theorem State.dRead_fst_congr (hi : t.iram = s.iram) (hr : t.inReg = s.inReg) (hn : t.inputs = s.inputs)
    (hd : t.draws = s.draws) (d : Byte) : (t.dRead d).1 = (s.dRead d).1 := by
  have hport : t.readsPort d = s.readsPort d := by rw [State.readsPort, State.readsPort, hr]
  have hinput : t.nextInput d = s.nextInput d := by rw [State.nextInput, State.nextInput, hn, hd]
  rw [State.dRead_fst, State.dRead_fst, hport, hinput, State.iramRead_of_iram hi]

end Sys2Proof.Machine

namespace Sys2Proof.Proofs
open Sys2Proof.Machine

/-- Settles O14: the flags and the platform by what every chain keeps, the registers and XDATA by
`exec_writtenBy`. -/
theorem registersChangeOnlyInTheirInstructions : Obligations.RegistersChangeOnlyInTheirInstructions := by
  intro i s t h
  have c : Chain s t := exec_chain i s t h
  obtain ⟨hb, hsp, hdptr, hxdata⟩ := exec_writtenBy h
  have hflags : t.f0 = s.f0 ∧ t.rs1 = s.rs1 ∧ t.rs0 = s.rs0 ∧ t.f1 = s.f1 :=
    ⟨c.psw_bit (by decide), c.psw_bit (by decide), c.psw_bit (by decide), c.psw_bit (by decide)⟩
  exact ⟨hflags, hb, hsp, hdptr, hxdata, c.platformSame⟩

/-- Settles O16: `exec_pc`, with the word read as a number. -/
theorem pcAdvancesByTheLength : Obligations.PcAdvancesByTheLength := by
  intro i s t hi h
  rw [Claims.Goes, exec_pc hi h, State.pcNext_toNat]

/-- Settles O15: a write goes to IRAM or the port, a read sees IRAM, InReg and the free input; none of them is
a core register. -/
theorem coreRegistersHaveNoAddress : Obligations.CoreRegistersHaveNoAddress := by
  intro s d v w pc dptr a b psw sp
  constructor
  · rintro t (rfl | rfl | rfl) <;> simp
  · rintro u rfl
    have hread : ∀ e, ((State.dRead { s with pc, dptr, a, b, psw, sp } e).1 = (s.dRead e).1) :=
      State.dRead_fst_congr rfl rfl rfl rfl
    exact ⟨hread d, rfl, congrArg (·.getLsbD (bitPos d)) (hread (bitByte d))⟩

end Sys2Proof.Proofs
end

section
/-! PROOFS. Register and indirect operands (O18, O19) and the stack operations (O24, O25). -/
namespace Sys2Proof.Machine

variable {s t : State}

/-! ## A word as two bytes -/

theorem word_low_toNat (w : Word) : (w.extractLsb' 0 8 : Byte).toNat = w.toNat % 256 := by
  rw [BitVec.extractLsb'_toNat, Nat.shiftRight_zero]

theorem word_high_toNat (w : Word) : (w.extractLsb' 8 8 : Byte).toNat = w.toNat / 256 := by
  have := w.isLt
  rw [BitVec.extractLsb'_toNat, Nat.shiftRight_eq_div_pow]
  omega

/-! ## The stack operations, where their bound holds -/

/-- Only the registers of `regs` and the IRAM bytes of `cells` may differ: no flag, not PC, not the port. -/
def StackFrame (regs : List Reg) (cells : List Byte) (s t : State) : Prop :=
  Frame regs [] cells [] s t ∧ PortAs s t ∧ t.pc = s.pc

/-- Setting SP changes SP alone. -/
theorem stackFrame_setSp (s : State) (v : Byte) : StackFrame [.sp] [] s (s.setSp v) :=
  ⟨frame_setSp s v (by simp), ⟨rfl, rfl, rfl⟩, rfl⟩

/-- With SP put back, what differs from `s` are the cells written in between. -/
theorem StackFrame.restoreSp {cells : List Byte} (h : StackFrame [.sp] cells s t) :
    StackFrame [] cells s (t.setSp s.sp) := by
  obtain ⟨⟨hregs, hrest⟩, hport, hpc⟩ := h
  refine ⟨⟨fun r _ => ?_, hrest⟩, hport, hpc⟩
  cases r with
  | sp => rfl
  | a => exact hregs .a (by decide)
  | b => exact hregs .b (by decide)
  | dptr => exact hregs .dptr (by decide)

theorem State.popByte_of_ne (h : s.sp ≠ 0x00) : s.popByte = .ok (s.iramRead s.sp, s.setSp (s.sp - 1)) :=
  (s.popByte_ok_iff _).2 ⟨h, rfl⟩

theorem State.popWord_of_gt (h : ¬s.sp ≤ 0x01) :
    s.popWord = .ok (s.iramRead s.sp ++ s.iramRead (s.sp - 1), s.setSp (s.sp - 2)) :=
  (s.popWord_ok_iff _).2 ⟨h, rfl⟩

/-- What a push of a byte leaves. -/
theorem State.pushByte_of_ne (v : Byte) (hs : s.iram.wf) (h : s.sp ≠ 0xFF) :
    ∃ t, s.pushByte v = .ok t ∧ t.sp = s.sp + 1 ∧ t.iramRead t.sp = v ∧ StackFrame [.sp] [t.sp] s t := by
  refine ⟨_, (s.pushByte_ok_iff _ v).2 ⟨h, rfl⟩, rfl, s.iramRead_iramWrite_self _ v hs, ?_, ⟨rfl, rfl, rfl⟩, rfl⟩
  exact (frame_iramWrite s _ v (by simp)).trans (frame_setSp _ _ (by simp))

/-- What a push of a word leaves: its second write goes to another cell than its first. -/
theorem State.pushWord_of_lt (w : Word) (hs : s.iram.wf) (h : ¬0xFE ≤ s.sp) :
    ∃ t, s.pushWord w = .ok t ∧ t.sp = s.sp + 2 ∧ t.iramRead (s.sp + 1) = w.extractLsb' 0 8 ∧
      t.iramRead (s.sp + 2) = w.extractLsb' 8 8 ∧ StackFrame [.sp] [s.sp + 1, s.sp + 2] s t := by
  have hne : s.sp + 1 ≠ s.sp + 2 := by bv_omega
  have hlow : ((s.iramWrite (s.sp + 1) (w.extractLsb' 0 8)).iramWrite (s.sp + 2)
      (w.extractLsb' 8 8)).iramRead (s.sp + 1) = w.extractLsb' 0 8 := by
    rw [State.iramRead_iramWrite_ne _ _ _ _ hne, State.iramRead_iramWrite_self _ _ _ hs]
  refine ⟨_, (s.pushWord_ok_iff _ w).2 ⟨h, rfl⟩, rfl, hlow,
    State.iramRead_iramWrite_self _ _ _ (Memory.wf_write _ _ _ hs), ?_, ⟨rfl, rfl, rfl⟩, rfl⟩
  exact ((frame_iramWrite s _ _ (by simp)).trans (frame_iramWrite _ _ _ (by simp))).trans
    (frame_setSp _ _ (by simp))

end Sys2Proof.Machine

namespace Sys2Proof.Proofs
open Sys2Proof.Machine

/-- Settles O24: the bound decides each operation; a pop after a push reads the byte just written and puts SP
back. -/
theorem pushByteThenPopByte : Obligations.PushByteThenPopByte := by
  intro s v hs
  refine ⟨fun h => if_pos h, fun h => if_pos h, fun h => ?_, fun h => ?_⟩
  · refine ⟨_, State.popByte_of_ne h, ?_, stackFrame_setSp s _⟩
    rw [State.setSp_sp]
    bv_omega
  · obtain ⟨t, hpush, hsp, hread, hframe⟩ := State.pushByte_of_ne v hs.iramWf h
    have hpop : t.popByte = .ok (v, t.setSp s.sp) := by
      have hback : t.sp - 1 = s.sp := by bv_omega
      rw [State.popByte_of_ne (by bv_omega), hread, hback]
    have hspNat : t.sp.toNat = s.sp.toNat + 1 := by bv_omega
    have hrestored := hframe.restoreSp
    obtain ⟨hf, hport, hpc⟩ := hframe
    exact ⟨t, t.setSp s.sp, hpush, hspNat, hread, hf, hport, hpc, hpop, rfl, hrestored⟩

/-- Settles O25: as for a byte; the two bytes read back are the halves of the word. -/
theorem pushWordThenPopWord : Obligations.PushWordThenPopWord := by
  intro s w hs
  refine ⟨fun h => if_pos (by bv_omega), fun h => if_pos (by bv_omega), fun h => ?_, fun h => ?_⟩
  · refine ⟨_, _, State.popWord_of_gt (by bv_omega), word_toNat _ _, ?_, stackFrame_setSp s _⟩
    rw [State.setSp_sp]
    bv_omega
  · obtain ⟨t, hpush, hsp, hlow, hhigh, hframe⟩ := State.pushWord_of_lt w hs.iramWf (by bv_omega)
    have hpop : t.popWord = .ok (w, t.setSp s.sp) := by
      have hlowAt : t.sp - 1 = s.sp + 1 := by bv_omega
      have hback : t.sp - 2 = s.sp := by bv_omega
      rw [State.popWord_of_gt (by bv_omega), hlowAt, hback, hsp, hhigh, hlow, word_high_low]
    have hspNat : t.sp.toNat = s.sp.toNat + 2 := by bv_omega
    have hrestored := hframe.restoreSp
    obtain ⟨hf, hport, hpc⟩ := hframe
    exact ⟨t, t.setSp s.sp, hpush, hspNat, by rw [hlow, word_low_toNat], by rw [hhigh, word_high_toNat], hf, hport,
      hpc, hpop, rfl, hrestored⟩

/-- Settles O18: a register and the cell `@Ri` points to are cells of IRAM, read and written raw. -/
theorem registerAndIndirectAddressing : Obligations.RegisterAndIndirectAddressing := by
  intro s n i v hs
  have hkept : ∀ d, IramKeptBut [d] s (s.iramWrite d v) := fun d e he =>
    s.iramRead_iramWrite_ne d e v (by simpa using he)
  have hport : ∀ d, PortAs s (s.iramWrite d v) := fun _ => ⟨rfl, rfl, rfl⟩
  exact ⟨s.bankBase_toNat, s.regAddr_toNat n, s.regAddr_le n, rfl, s.regRead_iramWrite_self n v hs.iramWf,
    hkept _, rfl, rfl, s.iramRead_iramWrite_self _ v hs.iramWf, hkept _, hport _, hport _⟩

/-- Settles O19: a register address is the bank base plus the index. -/
theorem registersOfABankDiffer : Obligations.RegistersOfABankDiffer := by
  intro s m n h
  have hm := s.regAddr_toNat m
  have hn := s.regAddr_toNat n
  rw [h] at hm
  exact BitVec.eq_of_toNat_eq (by omega)

end Sys2Proof.Proofs
end

section
/-! PROOFS. The port and routed access (O20, O21), bit operands (O22, O23), and how many transactions one
instruction makes (O17): said once for every instruction in `exec_portUse`. -/
namespace Sys2Proof.Machine

variable {s t : State} {d e v : Byte}

/-! ## The events of a routed access -/

/-- What a routed read of `d` adds to the trace. -/
def State.readEvents (s : State) (d : Byte) : List PortEvent :=
  if s.readsPort d then [.input d (s.nextInput d)] else []

/-- What a routed write of `v` at `d` adds to the trace. -/
def State.writeEvents (s : State) (d v : Byte) : List PortEvent :=
  if s.writesPort d then [.output d v] else []

@[simp] theorem State.dRead_trace (s : State) (d : Byte) : (s.dRead d).2.trace = s.trace ++ s.readEvents d := by
  rcases s.dRead_cases d with ⟨hp, hr⟩ | ⟨hp, hr⟩ <;> simp [hr, State.readEvents, hp]

@[simp] theorem State.dWrite_trace (s : State) (d v : Byte) :
    (s.dWrite d v).trace = s.trace ++ s.writeEvents d v := by
  rcases s.dWrite_cases d v with ⟨hp, hw⟩ | ⟨hp, hw⟩ <;> simp [hw, State.writeEvents, hp]

/-- A routed read changes no registration, so not what a later write adds. -/
@[simp] theorem State.dRead_writeEvents (s : State) (d e v : Byte) :
    (s.dRead d).2.writeEvents e v = s.writeEvents e v := by simp [State.writeEvents]

/-- A routed read, then a routed write. -/
theorem State.dRead_dWrite_trace (s : State) (d e v : Byte) :
    ((s.dRead d).2.dWrite e v).trace = s.trace ++ (s.readEvents d ++ s.writeEvents e v) := by simp

/-- At most one input, at a registered window address. -/
def InputOrNone (s : State) (ins : List PortEvent) : Prop :=
  ins = [] ∨ ∃ a v, ins = [.input a v] ∧ 0x80 ≤ a ∧ a ∈ s.inReg

/-- At most one output, at a registered window address. -/
def OutputOrNone (s : State) (outs : List PortEvent) : Prop :=
  outs = [] ∨ ∃ a v, outs = [.output a v] ∧ 0x80 ≤ a ∧ a ∈ s.outReg

theorem State.readEvents_inputOrNone (s : State) (d : Byte) : InputOrNone s (s.readEvents d) := by
  unfold State.readEvents
  split
  next hp => exact .inr ⟨d, s.nextInput d, rfl, (s.readsPort_iff d).1 hp⟩
  next => exact .inl rfl

theorem State.writeEvents_outputOrNone (s : State) (d v : Byte) : OutputOrNone s (s.writeEvents d v) := by
  unfold State.writeEvents
  split
  next hp => exact .inr ⟨d, v, rfl, (s.writesPort_iff d).1 hp⟩
  next => exact .inl rfl

/-! ## The transactions of an instruction -/

/-- The trace grows by at most one input, then at most one output, each at a registered window address. -/
def PortUse (s t : State) : Prop :=
  ∃ ins outs, t.trace = s.trace ++ (ins ++ outs) ∧ InputOrNone s ins ∧ OutputOrNone s outs

namespace PortUse

theorem of_noAccess (h : t.trace = s.trace) : PortUse s t :=
  ⟨[], [], by rw [h, List.append_nil, List.append_nil], .inl rfl, .inl rfl⟩

theorem of_read (h : t.trace = s.trace ++ s.readEvents d) : PortUse s t :=
  ⟨s.readEvents d, [], by rw [h, List.append_nil], s.readEvents_inputOrNone d, .inl rfl⟩

theorem of_write (h : t.trace = s.trace ++ s.writeEvents d v) : PortUse s t :=
  ⟨[], s.writeEvents d v, h, .inl rfl, s.writeEvents_outputOrNone d v⟩

theorem of_readWrite (h : t.trace = s.trace ++ (s.readEvents d ++ s.writeEvents e v)) : PortUse s t :=
  ⟨s.readEvents d, s.writeEvents e v, h, s.readEvents_inputOrNone d, s.writeEvents_outputOrNone e v⟩

end PortUse

/-- Every meaning makes no routed access, one routed read, one routed write, or one read and then one write
(`20_memory.md` R79). -/
theorem exec_portUse {i : Instr} (h : exec i s = .next t) : PortUse s t := by
  cases i with
  | addADirect d | addcADirect d | subbADirect d | anlADirect d | orlADirect d | xrlADirect d | movADirect d
  | movRnDirect _ d | movIndDirect _ d | cjneADirect d =>
    cases h
    exact .of_read (d := d) (by simp)
  | anlCBit b | anlCNotBit b | orlCBit b | orlCNotBit b | movCBit b | jb b | jnb b =>
    cases h
    exact .of_read (d := bitByte b) (by simp)
  | movDirectA | movDirectRn | movDirectInd | movDirectImm =>
    cases h
    exact .of_write (State.dWrite_trace ..)
  | incDirect | decDirect | anlDirectA | anlDirectImm | orlDirectA | orlDirectImm | xrlDirectA | xrlDirectImm
  | movDirectDirect | xchADirect | clrBit | setbBit | cplBit | movBitC =>
    cases h
    exact .of_readWrite (State.dRead_dWrite_trace ..)
  | djnzDirect d e =>
    cases h
    rw [State.branch_eq]
    exact .of_readWrite (State.dRead_dWrite_trace ..)
  | jbc b =>
    simp only [exec, execJbc] at h
    split at h <;> cases h
    · exact .of_readWrite (State.dRead_dWrite_trace ..)
    · exact .of_read (State.dRead_trace ..)
  | push d =>
    obtain rfl := next_of_unless ((execPush_eq d s).symm.trans h)
    exact .of_read (State.dRead_trace ..)
  | pop d =>
    obtain rfl := next_of_unless ((execPop_eq d s).symm.trans h)
    exact .of_write (State.dWrite_trace (s.setSp _) ..)
  | acall | lcall =>
    obtain ⟨u, hu, hn⟩ := orRaise_eq_next h
    obtain ⟨-, rfl⟩ := (State.pushWord_ok_iff ..).1 hu
    cases hn
    exact .of_noAccess rfl
  | ret | reti =>
    obtain ⟨r, hr, hn⟩ := orRaise_eq_next h
    obtain ⟨-, rfl⟩ := (State.popWord_ok_iff ..).1 hr
    cases hn
    exact .of_noAccess rfl
  | movxIndA | movxDptrA =>
    obtain ⟨u, hu, hn⟩ := orRaise_eq_next h
    obtain ⟨-, rfl⟩ := (State.xdataWrite_ok_iff ..).1 hu
    cases hn
    exact .of_noAccess rfl
  | movcADptr | movcAPc | movxAInd | movxADptr =>
    obtain ⟨v, -, hn⟩ := orRaise_eq_next h
    cases hn
    exact .of_noAccess rfl
  | reserved => cases h
  | _ =>
    cases h
    exact .of_noAccess (by simp)

/-! ## Bits of bytes without callbacks -/

/-- A bit read where no input callback is registered. -/
theorem State.bitRead_fst_of_iram (s : State) (b : Byte) (h : s.readsPort (bitByte b) = false) :
    (s.bitRead b).1 = (s.iramRead (bitByte b)).getLsbD (bitPos b) := by
  rw [State.bitRead, s.dRead_of_iram _ h]

/-- A bit written where no callback is registered. -/
theorem State.bitWrite_of_iram (s : State) (b : Byte) (v : Bool) (hr : s.readsPort (bitByte b) = false)
    (hw : s.writesPort (bitByte b) = false) :
    s.bitWrite b v = s.iramWrite (bitByte b) (setBit (s.iramRead (bitByte b)) (bitPos b) v) := by
  rw [State.bitWrite_eq, s.dRead_of_iram _ hr, s.dWrite_of_iram _ _ hw]

/-- The byte of bit address `b` with that bit replaced, as the model computes it and as R74 writes it. -/
theorem setBit_bitPos (u b : Byte) (v : Bool) : setBit u (bitPos b) v = Claims.byteWithBit u b v := by
  cases v with
  | true => rw [setBit_true _ _ (bitPos_lt b), bitPos_eq]; rfl
  | false => rw [setBit_false _ _ (bitPos_lt b), bitPos_eq]; rfl

end Sys2Proof.Machine

namespace Sys2Proof.Proofs
open Sys2Proof.Machine

/-- Settles O17: `exec_portUse`. -/
theorem atMostOneInputThenOneOutput : Obligations.AtMostOneInputThenOneOutput :=
  fun _ _ _ h => exec_portUse h

/-- Settles O23: another bit has another byte, which the write leaves alone, or the same byte and another
position. -/
theorem bitWriteChangesOneBit : Obligations.BitWriteChangesOneBit := by
  intro s b c v hs hrb hwb hrc
  rw [s.bitWrite_of_iram b v hrb hwb, (s.iramWrite _ _).bitRead_fst_of_iram c hrc, s.bitRead_fst_of_iram c hrc]
  by_cases hbyte : bitByte c = bitByte b
  · have hpos : bitPos c = bitPos b ↔ c = b := ⟨bitAddr_inj c b hbyte, congrArg bitPos⟩
    rw [hbyte, s.iramRead_iramWrite_self _ _ hs.iramWf, setBit_getLsbD _ _ _ _ (bitPos_lt b)]
    simp only [hpos]
  · have hne : c ≠ b := fun h => hbyte (congrArg bitByte h)
    rw [s.iramRead_iramWrite_ne _ _ _ hbyte, if_neg hne]

/-- Settles O20: the two cases of `dRead`. -/
theorem routedReadGoesToThePortOrIram : Obligations.RoutedReadGoesToThePortOrIram := by
  intro s a
  rw [← s.readsPort_iff]
  refine ⟨fun hp => ?_, fun hp => s.dRead_of_iram a (Bool.eq_false_of_not_eq_true hp)⟩
  have hread := s.dRead_of_port a hp
  have hframe : Frame [] [] [] [] s (s.portIn a).2 := hread ▸ frame_dRead s a
  have hqueue : ∀ w ws, s.inputs = w :: ws → s.nextInput a = w ∧ (s.portIn a).2.inputs = ws :=
    fun w ws hq => by simp [State.nextInput, hq]
  exact ⟨s.nextInput a, (s.portIn a).2, hread, hqueue, rfl, rfl, hframe, rfl⟩

/-- Settles O21: the two cases of `dWrite`. -/
theorem routedWriteGoesToThePortOrIram : Obligations.RoutedWriteGoesToThePortOrIram := by
  intro s a v hs
  rw [← s.writesPort_iff]
  constructor
  · intro hp
    rw [s.dWrite_of_port a v hp]
    exact ⟨_, rfl, rfl, rfl, rfl, frame_portOut s a v, rfl⟩
  · intro hp
    rw [s.dWrite_of_iram a v (Bool.eq_false_of_not_eq_true hp)]
    exact ⟨_, rfl, ⟨rfl, rfl, rfl⟩, s.iramRead_iramWrite_self a v hs.iramWf, frame_iramWrite s a v (by simp), rfl⟩

/-- Settles O22: bit addresses as numbers, and `setBit` as the masks of R74. -/
theorem bitOperandsAreBitsOfRoutedBytes : Obligations.BitOperandsAreBitsOfRoutedBytes := by
  intro s b v
  refine ⟨bitByte_low b, bitByte_high b, bitPos_eq b, ?_, ?_⟩
  · rw [State.bitRead, bitPos_eq]
  · rw [State.bitWrite_eq, setBit_bitPos]

end Sys2Proof.Proofs
end

section
/-! PROOFS. Decoding and encoding (O1 to O4) and the instruction a step runs (O5). The bytes of one whole
instruction (`IsOneInstr`) and the instruction they are (`instrOf`) correspond one to one: `instrOf_encode` goes
through the forms of `Instr`, `encode_instrOf` through the rows of the opcode table. -/
namespace Sys2Proof

/-! ## The bytes of one whole instruction -/

/-- `bs` has as many bytes as its opcode byte asks for. -/
def IsOneInstr (bs : List Byte) : Prop := opcodeLength (bs.getD 0 0) = bs.length

/-- The instruction of the bytes `bs`. -/
def instrOf (bs : List Byte) : Instr := decodeBytes (bs.getD 0 0) (bs.getD 1 0) (bs.getD 2 0)

/-- Bytes that make one instruction are one, two or three. -/
theorem IsOneInstr.cases {bs : List Byte} (h : IsOneInstr bs) :
    (∃ op, bs = [op]) ∨ (∃ op b1, bs = [op, b1]) ∨ ∃ op b1 b2, bs = [op, b1, b2] := by
  have hlen := opcodeLength_bounds (bs.getD 0 0)
  rw [h] at hlen
  match bs, hlen with
  | [op], _ => exact .inl ⟨op, rfl⟩
  | [op, b1], _ => exact .inr (.inl ⟨op, b1, rfl⟩)
  | [op, b1, b2], _ => exact .inr (.inr ⟨op, b1, b2, rfl⟩)
  | [], hlen => exact absurd hlen.1 (by simp)
  | _ :: _ :: _ :: _ :: _, hlen => exact absurd hlen.2 (by simp)

/-- The decoder reads the bytes of one instruction and leaves what comes after them. -/
theorem decode_append {bs : List Byte} (h : IsOneInstr bs) (rest : List Byte) :
    decode (bs ++ rest) = .ok (instrOf bs, rest) := by
  obtain ⟨op, rfl⟩ | ⟨op, b1, rfl⟩ | ⟨op, b1, b2, rfl⟩ := h.cases
  · have hlen : opcodeLength op = 1 := h
    rw [List.singleton_append, decode_one hlen, (decodeBytes_unused ..).1 (by omega)]
    rfl
  · have hlen : opcodeLength op = 2 := h
    rw [List.cons_append, List.singleton_append, decode_two hlen, (decodeBytes_unused ..).2 (by omega)]
    rfl
  · exact decode_three h b1 b2 rest

/-- What the decoder reads begins with the bytes of one instruction. -/
theorem exists_isOneInstr_of_decode {bs : List Byte} {r : Instr × List Byte} (h : decode bs = .ok r) :
    ∃ own rest, IsOneInstr own ∧ bs = own ++ rest := by
  cases bs with
  | nil => cases h
  | cons op tail =>
    rw [decode] at h
    split at h
    next => cases h
    next hlen =>
      have hpos := (opcodeLength_bounds op).1
      refine ⟨(op :: tail).take (opcodeLength op), (op :: tail).drop (opcodeLength op), ?_,
        (List.take_append_drop ..).symm⟩
      obtain ⟨n, hn⟩ := Nat.exists_eq_add_of_le' hpos
      rw [IsOneInstr, List.length_take, hn, List.take_succ_cons, List.getD_cons_zero, List.length_cons]
      omega

/-! ## The row of an opcode byte -/

/-- Of the rows of the table, an opcode byte selects the one `lookup` gives and no other (`30_encoding.md` R120). -/
theorem filter_selects (op : Byte) : opcodeTable.filter (·.selects op) = [lookup op] := by
  have hone : ∀ op : Byte, (opcodeTable.filter (·.selects op)).length = 1 := by decide +kernel
  obtain ⟨row, hrow⟩ := List.length_eq_one_iff.1 (hone op)
  have hlookup : lookup op = row := by rw [lookup, ← List.head?_filter, hrow, List.head?_cons, Option.getD_some]
  rw [hrow, hlookup]

theorem mem_and_selects_iff (row : OpcodeRow) (op : Byte) :
    (row ∈ opcodeTable ∧ row.selects op = true) ↔ row = lookup op := by
  rw [← List.mem_singleton (a := row), ← filter_selects]
  exact (List.mem_filter (p := fun row : OpcodeRow => row.selects op)).symm

theorem lookup_mem (op : Byte) : lookup op ∈ opcodeTable := ((mem_and_selects_iff ..).2 rfl).1

theorem lookup_selects (op : Byte) : (lookup op).selects op = true := ((mem_and_selects_iff ..).2 rfl).2

/-- Opcode bytes that differ only in operand bits have the same row. -/
theorem lookup_of_mask {op op' : Byte} (h : op' &&& (lookup op).mask = op &&& (lookup op).mask) :
    lookup op' = lookup op := by
  have hsel : (lookup op).selects op' = true := by
    rw [OpcodeRow.selects, h]
    exact lookup_selects op
  exact ((mem_and_selects_iff ..).1 ⟨lookup_mem op, hsel⟩).symm

/-! ## The bytes of a form are read as that form -/

theorem instrOf_cons {op : Byte} {tail : List Byte} {i : Instr}
    (h : (lookup op).build op (tail.getD 0 0) (tail.getD 1 0) = i) : instrOf (op :: tail) = i := h

/-- An opcode byte that differs from `op₀` only in operand bits is read by the row of `op₀`. -/
theorem instrOf_of_mask {op op₀ : Byte} {tail : List Byte} {i : Instr}
    (hmask : op &&& (lookup op₀).mask = op₀ &&& (lookup op₀).mask)
    (h : (lookup op₀).build op (tail.getD 0 0) (tail.getD 1 0) = i) : instrOf (op :: tail) = i :=
  instrOf_cons ((lookup_of_mask hmask).symm ▸ h)

/-- A form with a register in `op[2:0]`: the row is that of register 0. -/
theorem instrOf_reg {p : BitVec 5} {n : RegIndex} {tail : List Byte} {i : Instr}
    (hmask : (lookup (p ++ 0#3)).mask = 0xF8)
    (h : ∀ op, regField op = n → (lookup (p ++ 0#3)).build op (tail.getD 0 0) (tail.getD 1 0) = i) :
    instrOf ((p ++ n) :: tail) = i := by
  have hbits : ∀ (p : BitVec 5) (n : RegIndex), (p ++ n) &&& 0xF8#8 = (p ++ 0#3) &&& 0xF8#8 := by decide
  exact instrOf_of_mask (hmask ▸ hbits p n) (h _ (regField_append p n))

/-- A form with a pointer in `op[0]`: the row is that of pointer 0. -/
theorem instrOf_ptr {p : BitVec 7} {n : PtrIndex} {tail : List Byte} {i : Instr}
    (hmask : (lookup (p ++ 0#1)).mask = 0xFE)
    (h : ∀ op, ptrField op = n → (lookup (p ++ 0#1)).build op (tail.getD 0 0) (tail.getD 1 0) = i) :
    instrOf ((p ++ n) :: tail) = i := by
  have hbits : ∀ (p : BitVec 7) (n : PtrIndex), (p ++ n) &&& 0xFE#8 = (p ++ 0#1) &&& 0xFE#8 := by decide
  exact instrOf_of_mask (hmask ▸ hbits p n) (h _ (ptrField_append p n))

/-- A form with a page offset in `op[7:5]` and the second byte: the row is that of page 0. -/
theorem instrOf_page {p : BitVec 5} {a : PageOffset} {i : Instr}
    (hmask : (lookup (0#3 ++ p)).mask = 0x1F)
    (h : ∀ op, pageField op (a.extractLsb' 0 8) = a → (lookup (0#3 ++ p)).build op (a.extractLsb' 0 8) 0 = i) :
    instrOf [a.extractLsb' 8 3 ++ p, a.extractLsb' 0 8] = i := by
  have hbits : ∀ (x : BitVec 3) (p : BitVec 5), (x ++ p) &&& 0x1F#8 = (0#3 ++ p) &&& 0x1F#8 := by decide
  have hfield : pageField (a.extractLsb' 8 3 ++ p) (a.extractLsb' 0 8) = a := by
    rw [pageField_append, Machine.page_high_low]
  exact instrOf_of_mask (hmask ▸ hbits _ p) (h _ hfield)

/-- Every form, by where its operands stand: in `op[2:0]`, in `op[0]`, in `op[7:5]` and the second byte, or in the
operand bytes alone. -/
theorem instrOf_encode (i : Instr) : instrOf (encode i) = i := by
  cases i with
  | addARn | addcARn | subbARn | incRn | decRn | anlARn | orlARn | xrlARn | movARn | movRnA | movRnDirect | movRnImm
  | movDirectRn | xchARn | cjneRnImm | djnzRn => exact instrOf_reg rfl (by rintro _ rfl; rfl)
  | addAInd | addcAInd | subbAInd | incInd | decInd | anlAInd | orlAInd | xrlAInd | movAInd | movDirectInd | movIndA
  | movIndDirect | movIndImm | movxAInd | movxIndA | xchAInd | xchdAInd | cjneIndImm =>
    exact instrOf_ptr rfl (by rintro _ rfl; rfl)
  | acall | ajmp => exact instrOf_page rfl (fun _ h => congrArg _ h)
  | movDptrImm k | lcall k | ljmp k => exact instrOf_cons (congrArg _ (Machine.word_high_low k))
  | _ => exact instrOf_cons rfl

/-! ## Every row builds an instruction whose encoding is the bytes it was built from -/

/-- An instruction `row` builds is encoded as the bytes it was built from, as many as the row says. -/
def OpcodeRow.Encodes (row : OpcodeRow) : Prop :=
  ∀ op b1 b2, row.selects op = true → encode (row.build op b1 b2) = [op, b1, b2].take row.length

namespace OpcodeRow.Encodes

variable {m : String} {p : Byte} {len : Nat} {build : Byte → Byte → Byte → Instr}

/-- A row without an operand in the opcode byte. -/
theorem fixed (h : ∀ b1 b2, encode (build p b1 b2) = [p, b1, b2].take len := by intros; rfl) :
    Encodes ⟨m, p, 0xFF, len, build⟩ := by
  intro op b1 b2 hsel
  obtain rfl : op = p := BitVec.and_allOnes.symm.trans (beq_iff_eq.1 hsel)
  exact h b1 b2

/-- A row whose two operand bytes are a word, high byte first. -/
theorem word {f : Word → Instr}
    (h : ∀ w, encode (f w) = [p, w.extractLsb' 8 8, w.extractLsb' 0 8] := by intros; rfl) :
    Encodes ⟨m, p, 0xFF, 3, fun _ b1 b2 => f (b1 ++ b2)⟩ := by
  refine fixed fun b1 b2 => ?_
  obtain ⟨hhigh, hlow⟩ := Machine.word_halves b1 b2
  rw [h, hhigh, hlow]
  rfl

/-- A row with a register in `op[2:0]`. -/
theorem reg (h : ∀ op b1 b2, encode (build op b1 b2) = [p.extractLsb' 3 5 ++ regField op, b1, b2].take len := by
    intros; rfl) : Encodes ⟨m, p, 0xF8, len, build⟩ := by
  intro op b1 b2 hsel
  obtain rfl : op &&& 0xF8 = p := beq_iff_eq.1 hsel
  have hop : ∀ op : Byte, (op &&& 0xF8).extractLsb' 3 5 ++ regField op = op := by decide
  rw [h, hop]

/-- A row with a pointer in `op[0]`. -/
theorem ptr (h : ∀ op b1 b2, encode (build op b1 b2) = [p.extractLsb' 1 7 ++ ptrField op, b1, b2].take len := by
    intros; rfl) : Encodes ⟨m, p, 0xFE, len, build⟩ := by
  intro op b1 b2 hsel
  obtain rfl : op &&& 0xFE = p := beq_iff_eq.1 hsel
  have hop : ∀ op : Byte, (op &&& 0xFE).extractLsb' 1 7 ++ ptrField op = op := by decide
  rw [h, hop]

/-- A row with a page offset in `op[7:5]` and the second byte. -/
theorem page {f : PageOffset → Instr}
    (h : ∀ a, encode (f a) = [a.extractLsb' 8 3 ++ p.extractLsb' 0 5, a.extractLsb' 0 8] := by intros; rfl) :
    Encodes ⟨m, p, 0x1F, 2, fun op b1 _ => f (pageField op b1)⟩ := by
  intro op b1 b2 hsel
  obtain rfl : op &&& 0x1F = p := beq_iff_eq.1 hsel
  have hop : ∀ op : Byte, op.extractLsb' 5 3 ++ (op &&& 0x1F).extractLsb' 0 5 = op := by decide
  obtain ⟨hhigh, hlow⟩ := Machine.page_halves (op.extractLsb' 5 3) b1
  rw [h, pageField, hhigh, hlow, hop]
  rfl

end OpcodeRow.Encodes

section
open OpcodeRow.Encodes

theorem arithmeticRows_encode : ∀ row ∈ arithmeticRows, row.Encodes := by
  simp only [arithmeticRows, List.forall_mem_cons]
  exact ⟨reg, fixed, ptr, fixed, reg, fixed, ptr, fixed, reg, fixed, ptr, fixed, fixed, reg, fixed, ptr, fixed,
    fixed, reg, fixed, ptr, fixed, fixed, fixed, List.forall_mem_nil _⟩

theorem logicalRows_encode : ∀ row ∈ logicalRows, row.Encodes := by
  simp only [logicalRows, List.forall_mem_cons]
  exact ⟨reg, fixed, ptr, fixed, fixed, fixed, reg, fixed, ptr, fixed, fixed, fixed, reg, fixed, ptr, fixed,
    fixed, fixed, fixed, fixed, fixed, fixed, fixed, fixed, fixed, List.forall_mem_nil _⟩

theorem dataTransferRows_encode : ∀ row ∈ dataTransferRows, row.Encodes := by
  simp only [dataTransferRows, List.forall_mem_cons]
  exact ⟨reg, fixed, ptr, fixed, reg, reg, reg, fixed, reg, fixed, ptr, fixed, ptr, ptr, ptr, word, fixed,
    fixed, ptr, fixed, ptr, fixed, fixed, fixed, reg, fixed, ptr, ptr, List.forall_mem_nil _⟩

theorem booleanRows_encode : ∀ row ∈ booleanRows, row.Encodes := by
  simp only [booleanRows, List.forall_mem_cons]
  exact ⟨fixed, fixed, fixed, fixed, fixed, fixed, fixed, fixed, fixed, fixed, fixed, fixed, fixed, fixed,
    fixed, fixed, fixed, List.forall_mem_nil _⟩

theorem controlTransferRows_encode : ∀ row ∈ controlTransferRows, row.Encodes := by
  simp only [controlTransferRows, List.forall_mem_cons]
  exact ⟨page, word, fixed, fixed, page, word, fixed, fixed, fixed, fixed, fixed, fixed, reg, ptr, reg, fixed,
    fixed, fixed, List.forall_mem_nil _⟩

end

theorem opcodeTable_encode : ∀ row ∈ opcodeTable, row.Encodes := by
  simp only [opcodeTable, List.forall_mem_append]
  exact ⟨arithmeticRows_encode, logicalRows_encode, dataTransferRows_encode, booleanRows_encode,
    controlTransferRows_encode⟩

theorem encode_decodeBytes (op b1 b2 : Byte) :
    encode (decodeBytes op b1 b2) = [op, b1, b2].take (opcodeLength op) :=
  opcodeTable_encode _ (lookup_mem op) op b1 b2 (lookup_selects op)

theorem encode_instrOf {bs : List Byte} (h : IsOneInstr bs) : encode (instrOf bs) = bs := by
  rw [instrOf, encode_decodeBytes, h]
  obtain ⟨op, rfl⟩ | ⟨op, b1, rfl⟩ | ⟨op, b1, b2, rfl⟩ := h.cases <;> rfl

/-- The bytes of an instruction are as many as its opcode byte asks for (`30_encoding.md` R123). -/
theorem isOneInstr_encode (i : Instr) : IsOneInstr (encode i) := by
  have hbytes := encode_decodeBytes ((encode i).getD 0 0) ((encode i).getD 1 0) ((encode i).getD 2 0)
  rw [← instrOf, instrOf_encode] at hbytes
  have hlen := congrArg List.length hbytes
  have hbound := (opcodeLength_bounds ((encode i).getD 0 0)).2
  rw [List.length_take] at hlen
  exact (hlen.trans (Nat.min_eq_left hbound)).symm

end Sys2Proof

namespace Sys2Proof.Machine

variable {s : State} {bs cs : List Byte}

/-! ## Fetching the bytes that stand at PC -/

theorem State.CodeAtPc.of_append (h : s.CodeAtPc (bs ++ cs)) : s.CodeAtPc bs := by
  intro k hk
  rw [h k (by rw [List.length_append]; omega), List.getElem_append_left hk]

theorem State.CodeAtPc.fetchOperand (h : s.CodeAtPc bs) (k : Nat) :
    s.fetchOperand bs.length k = .ok (bs.getD k 0) := by
  unfold State.fetchOperand
  split
  next hk => rw [h k hk, List.getD_eq_getElem _ _ hk]
  next hk => rw [List.getD_eq_default _ _ (Nat.le_of_not_lt hk)]

/-- The bytes of one whole instruction at PC are fetched as the instruction they are. -/
theorem State.fetch_of_codeAtPc (hone : IsOneInstr bs) (h : s.CodeAtPc bs) : s.fetch = .ok (instrOf bs) := by
  have hpos : 0 < bs.length := hone ▸ (opcodeLength_bounds _).1
  have hop : s.codeRead s.pc.toNat = .ok (bs.getD 0 0) := by rw [List.getD_eq_getElem _ _ hpos]; exact h 0 hpos
  have hoperand : ∀ k, s.fetchOperand (opcodeLength (bs.getD 0 0)) k = .ok (bs.getD k 0) := hone ▸ h.fetchOperand
  exact (s.fetch_ok_iff _).2 ⟨_, _, _, hop, hoperand 1, hoperand 2, rfl⟩

theorem step_of_codeAtPc_encode {i : Instr} (h : s.CodeAtPc (encode i)) : step s = exec i s := by
  rw [step, s.fetch_of_codeAtPc (isOneInstr_encode i) h, instrOf_encode, orRaise_ok]

end Sys2Proof.Machine

namespace Sys2Proof.Proofs
open Sys2Proof.Machine

/-- Settles O1: the bytes of an instruction are one whole instruction, and it is that instruction. -/
theorem decodeOfEncodeIsIdentity : Obligations.DecodeOfEncodeIsIdentity := by
  intro i rest
  rw [decode_append (isOneInstr_encode i), instrOf_encode]

/-- Settles O2: the decoder takes the bytes of one whole instruction off the list, and they are the encoding of
what they are read as. -/
theorem decodedBytesAreTheEncoding : Obligations.DecodedBytesAreTheEncoding := by
  intro bs rest i h
  obtain ⟨own, after, hone, rfl⟩ := exists_isOneInstr_of_decode h
  rw [decode_append hone] at h
  cases h
  rw [encode_instrOf hone]

/-- Settles O3: one row by `filter_selects`; what the table says of each row holds of the row looked up. -/
theorem opcodeTableIsTotal : Obligations.OpcodeTableIsTotal := by
  have hrows : ∀ row ∈ opcodeTable, row.length ∈ [1, 2, 3] ∧
      (row.mnemonic ∈ Claims.mnemonics ∨ row.pattern = 0xA5 ∧ row.mask = 0xFF) := by decide +kernel
  refine ⟨fun op => by rw [filter_selects, List.length_singleton],
    fun op => ⟨lookup_selects op, (hrows _ (lookup_mem op)).1⟩, fun op hop => ?_, rfl, rfl⟩
  obtain hmem | ⟨hpattern, hmask⟩ := (hrows _ (lookup_mem op)).2
  · exact hmem
  · have hsel := beq_iff_eq.1 (lookup_selects op)
    rw [hpattern, hmask] at hsel
    exact absurd (BitVec.and_allOnes.symm.trans hsel) hop

/-- Settles O4: the ten words are the encodings of the ten instructions. -/
theorem wordsOfEachFamilyDecode : Obligations.WordsOfEachFamilyDecode :=
  ⟨instrOf_encode (.addARn 3), instrOf_encode (.subbAImm 0x7F), instrOf_encode (.anlDirectImm 0x90 0x0F),
    instrOf_encode (.movDirectDirect 0x40 0x41), instrOf_encode (.movDptrImm 0x1234),
    instrOf_encode (.movIndDirect 1 0x40), instrOf_encode (.jb 0x07 0xFD), instrOf_encode (.acall 0x345),
    instrOf_encode (.cjneRnImm 7 0x60 0xFD), instrOf_encode .reserved⟩

/-- Settles O5: what stands at PC is fetched as the instruction it encodes; bytes that decode to an instruction
begin with its encoding (O2). -/
theorem stepRunsTheDecodedInstruction : Obligations.StepRunsTheDecodedInstruction := by
  refine ⟨fun i s h => step_of_codeAtPc_encode h, fun i s bs rest hdecode h => ?_⟩
  rw [decodedBytesAreTheEncoding bs rest i hdecode] at h
  exact step_of_codeAtPc_encode h.of_append

end Sys2Proof.Proofs
end

section
/-! PROOFS. The arithmetic instructions (O26 to O35). Each form reads its operand, which may be one transaction at
the port (`OperandRead`), updates the state by one operation and advances PC; what such a form completes with is
said once per operation (`runs_addCore` to `runs_directModified`). DA A is two sums (`State.daLow`,
`State.daHigh`), and after packed-BCD operands they are read as the digits of the decimal sum. -/
namespace Sys2Proof.Machine

variable {s t u : State} {i : Instr} {bytes : List Byte} {len m : Nat}

/-! ## Bytes as numbers -/

theorem byte_succ_toNat (v : Byte) : (v + 1).toNat = (v.toNat + 1) % 256 := BitVec.toNat_add v 1

theorem byte_pred_toNat (v : Byte) : (v - 1).toNat = (v.toNat + 255) % 256 := by
  rw [BitVec.toNat_sub, Nat.add_comm]
  rfl

/-- A byte as a signed number: bit 7 weighs -128, the other seven bits as in the unsigned number. -/
theorem byte_toInt (v : Byte) : v.toInt = (v.toNat % 128 : Nat) - 128 * (v.toNat / 128 : Nat) := by
  have := v.isLt
  rw [BitVec.toInt_eq_toNat_cond]
  split <;> omega

theorem xor_decide_eq_true {p q : Prop} [Decidable p] [Decidable q] :
    (decide p ^^ decide q) = true ↔ ¬(p ↔ q) := by
  rw [Bool.xor_iff_ne, Ne, decide_eq_decide]

/-! ## The shape of a completed form -/

theorem goes_advance (h : u.pc = s.pc) (len : Nat) : Claims.Goes len s (u.advance len) := by
  rw [Claims.Goes, State.advance_pc h, State.pcNext_toNat]

/-- A form that only updates the state to `u` and then advances PC. -/
theorem runs_advance {Q : State → Prop} (hbytes : encode i = bytes) (hexec : exec i s = .next (u.advance len))
    (hpc : u.pc = s.pc) (hQ : Q (u.advance len)) : Claims.Runs i bytes s fun t => Claims.Goes len s t ∧ Q t :=
  ⟨hbytes, _, hexec, goes_advance hpc len, hQ⟩

theorem frame_advance {regs : List Reg} {flags : List Nat} {cells : List Byte} {xcells : List Nat}
    (h : Frame regs flags cells xcells s t) (len : Nat) : Frame regs flags cells xcells s (t.advance len) :=
  h.trans (frame_jump t _)

/-- A frame that allows nothing to change lies within every frame. -/
theorem Frame.of_nothing {regs : List Reg} {flags : List Nat} {cells : List Byte} {xcells : List Nat}
    (h : Frame [] [] [] [] s t) : Frame regs flags cells xcells s t := by
  obtain ⟨hregs, hflags, hiram, hxdata, hplatform⟩ := h
  exact ⟨fun r _ => hregs r (by simp), fun k hk _ => hflags k hk (by simp), fun a _ => hiram a (by simp),
    fun n _ => hxdata n (by simp), hplatform⟩

/-- In `u` an operand of the instruction has been read in `s`: nothing but the port may differ. -/
def OperandRead (s u : State) : Prop := u.pc = s.pc ∧ u.a = s.a ∧ Frame [] [] [] [] s u

theorem operandRead_refl (s : State) : OperandRead s s := ⟨rfl, rfl, Frame.refl s⟩

theorem operandRead_dRead (s : State) (d : Byte) : OperandRead s (s.dRead d).2 :=
  ⟨s.dRead_pc d, s.dRead_a d, frame_dRead s d⟩

/-! ## ADD, ADDC and SUBB -/

theorem added_addCore (s : State) (x : Byte) (c : Bool) : Claims.Added x c s (s.addCore x c) :=
  ⟨s.addCore_a x c, s.addCore_p x c, s.addCore_cy x c, s.addCore_ac x c, s.addCore_ov x c,
    frame_addCore s x c (by simp) (by simp) (by simp) (by simp) (by simp)⟩

theorem subtracted_subCore (s : State) (x : Byte) (c : Bool) : Claims.Subtracted x c s (s.subCore x c) :=
  ⟨s.subCore_a x c, s.subCore_p x c, s.subCore_cy x c, s.subCore_ac x c, s.subCore_ov x c,
    frame_subCore s x c (by simp) (by simp) (by simp) (by simp) (by simp)⟩

theorem portAs_addCore (s : State) (x : Byte) (c : Bool) : PortAs s (s.addCore x c) :=
  ⟨s.addCore_inputs x c, s.addCore_draws x c, s.addCore_trace x c⟩

theorem portAs_subCore (s : State) (x : Byte) (c : Bool) : PortAs s (s.subCore x c) :=
  ⟨s.subCore_inputs x c, s.subCore_draws x c, s.subCore_trace x c⟩

/-- OV of a sum: the carry out of bit 6 and the carry out of bit 7 differ exactly when the signed sum overflows. -/
theorem State.addCore_ov_iff (s : State) (x : Byte) (c : Bool) :
    (s.addCore x c).ov = true ↔ s.a.toInt + x.toInt + c.toNat < -128 ∨ s.a.toInt + x.toInt + c.toNat > 127 := by
  have ha := s.a.isLt
  have hx := x.isLt
  have hc := c.toNat_le
  rw [s.addCore_ov, xor_decide_eq_true, byte_toInt, byte_toInt]
  omega

/-- OV of a difference: the borrow into bit 7 and the borrow out of it differ exactly when the signed difference
overflows. -/
theorem State.subCore_ov_iff (s : State) (x : Byte) (c : Bool) :
    (s.subCore x c).ov = true ↔ s.a.toInt - x.toInt - c.toNat < -128 ∨ s.a.toInt - x.toInt - c.toNat > 127 := by
  have ha := s.a.isLt
  have hx := x.isLt
  have hc := c.toNat_le
  rw [s.subCore_ov, xor_decide_eq_true, byte_toInt, byte_toInt]
  omega

theorem runs_addCore {x : Byte} {c : Bool} (hbytes : encode i = bytes)
    (hexec : exec i s = .next ((u.addCore x c).advance len)) (hread : OperandRead s u) :
    Claims.Runs i bytes s fun t => Claims.Goes len s t ∧ Claims.Added x c s t ∧ PortAs u t := by
  obtain ⟨hpc, ha, hframe⟩ := hread
  obtain ⟨hsum, hp, hcy, hac, hov, hcore⟩ := added_addCore u x c
  rw [ha] at hsum hcy hac hov
  exact runs_advance hbytes hexec hpc
    ⟨⟨hsum, hp, hcy, hac, hov, frame_advance (hframe.of_nothing.trans hcore) len⟩, portAs_addCore u x c⟩

theorem runs_subCore {x : Byte} {c : Bool} (hbytes : encode i = bytes)
    (hexec : exec i s = .next ((u.subCore x c).advance len)) (hread : OperandRead s u) :
    Claims.Runs i bytes s fun t => Claims.Goes len s t ∧ Claims.Subtracted x c s t ∧ PortAs u t := by
  obtain ⟨hpc, ha, hframe⟩ := hread
  obtain ⟨hdiff, hp, hcy, hac, hov, hcore⟩ := subtracted_subCore u x c
  rw [ha] at hdiff hcy hac hov
  exact runs_advance hbytes hexec hpc
    ⟨⟨hdiff, hp, hcy, hac, hov, frame_advance (hframe.of_nothing.trans hcore) len⟩, portAs_subCore u x c⟩

/-! ## INC and DEC -/

theorem runs_writeA {v : Byte} (hbytes : encode i = bytes) (hexec : exec i s = .next ((s.writeA v).advance len))
    (hv : v.toNat = m) :
    Claims.Runs i bytes s fun t => Claims.Goes len s t ∧ t.a.toNat = m ∧ t.p = parity t.a ∧
      Frame [.a] [0] [] [] s t ∧ PortAs s t :=
  runs_advance hbytes hexec rfl
    ⟨hv, s.writeA_p v, frame_advance (frame_writeA s v (by simp) (by simp)) len, rfl, rfl, rfl⟩

/-- A form that writes one byte of IRAM, which `read` finds again. -/
theorem runs_iramWrite {d v : Byte} {read : State → Byte} (hs : s.Legal) (hbytes : encode i = bytes)
    (hexec : exec i s = .next ((s.iramWrite d v).advance len))
    (hread : read ((s.iramWrite d v).advance len) = (s.iramWrite d v).iramRead d) (hv : v.toNat = m) :
    Claims.Runs i bytes s fun t =>
      Claims.Goes len s t ∧ (read t).toNat = m ∧ Frame [] [] [d] [] s t ∧ PortAs s t := by
  have hvalue : (read ((s.iramWrite d v).advance len)).toNat = m := by
    rw [hread, s.iramRead_iramWrite_self d v hs.iramWf, hv]
  exact runs_advance hbytes hexec rfl
    ⟨hvalue, frame_advance (frame_iramWrite s d v (by simp)) len, rfl, rfl, rfl⟩

theorem directWritten_dWrite (d v : Byte) (hs : s.iram.wf) : Claims.DirectWritten s d v (s.dWrite d v) := by
  unfold Claims.DirectWritten
  rcases s.dWrite_cases d v with ⟨hp, hw⟩ | ⟨hp, hw⟩
  · rw [if_pos hp, hw]
    exact ⟨rfl, rfl, rfl⟩
  · rw [if_neg (by simp [hp]), hw]
    exact ⟨⟨rfl, rfl, rfl⟩, s.iramRead_iramWrite_self d v hs⟩

theorem mem_cellsOf {d : Byte} (h : s.writesPort d = false) : d ∈ Claims.cellsOf s d := by
  simp [Claims.cellsOf, h]

/-- A read-modify-write of a direct address. -/
theorem runs_directModified {d v : Byte} (hs : s.Legal) (hbytes : encode i = bytes)
    (hexec : exec i s = .next (((s.dRead d).2.dWrite d v).advance len)) :
    Claims.Runs i bytes s (Claims.DirectModified len d v s) := by
  have hwritten : Claims.DirectWritten (s.dRead d).2 d v ((s.dRead d).2.dWrite d v) :=
    directWritten_dWrite d v (hs.dRead d).iramWf
  have hframe : Frame [] [] (Claims.cellsOf s d) [] s ((s.dRead d).2.dWrite d v) :=
    (frame_dRead s d).trans (frame_dWrite _ d v fun h => mem_cellsOf (by rwa [State.dRead_writesPort] at h))
  exact runs_advance hbytes hexec (by simp) ⟨hwritten, frame_advance hframe len⟩

/-! ## DA A -/

/-- A after the correction of the low digit, before it is reduced modulo 256 (`40_arithmetic.md` R165). -/
def State.daLow (s : State) : Nat := s.a.toNat + if s.a.toNat % 16 > 9 ∨ s.ac = true then 6 else 0

/-- CY after the correction of the low digit. -/
def State.daLowCarry (s : State) : Bool := s.cy || decide (s.daLow > 255)

/-- A after the correction of the high digit, before it is reduced modulo 256. -/
def State.daHigh (s : State) : Nat :=
  s.daLow % 256 + if s.daLow % 256 / 16 > 9 ∨ s.daLowCarry = true then 96 else 0

/-- DA A computes the two sums. -/
theorem State.daCore_eq (s : State) :
    s.daCore = (s.setCy (s.daLowCarry || decide (s.daHigh > 255))).writeA (BitVec.ofNat 8 (s.daHigh % 256)) := by
  have hlow : daStep s.a.toNat s.cy (decide (s.a.toNat % 16 > 9) || s.ac) 6 = (s.daLow % 256, s.daLowCarry) := by
    rw [daStep_eq _ _ _ _ s.a.isLt]
    simp only [Bool.or_eq_true, decide_eq_true_eq]
    rfl
  rw [State.daCore, hlow, daStep_eq _ _ _ _ (Nat.mod_lt _ (by decide))]
  simp only [Bool.or_eq_true, decide_eq_true_eq]
  rfl

theorem State.daCore_a (s : State) : s.daCore.a.toNat = s.daHigh % 256 := by
  rw [s.daCore_eq, State.writeA_a, BitVec.toNat_ofNat, Nat.mod_mod]

theorem State.daCore_cy (s : State) : s.daCore.cy = (s.daLowCarry || decide (s.daHigh > 255)) := by
  rw [s.daCore_eq]
  exact State.setCy_writeA_bit s _ _ 7

/-! ## DA A after an addition of packed-BCD bytes -/

/-- The decimal sum of two packed-BCD bytes and a carry. -/
def bcdSum (a x : Byte) (c : Bool) : Nat := Claims.bcdValue a + Claims.bcdValue x + c.toNat

variable {x : Byte} {c : Bool}

theorem bcdSum_lt {a x : Byte} {c : Bool} (ha : Claims.isBcd a) (hx : Claims.isBcd x) : bcdSum a x c < 200 := by
  obtain ⟨hah, hal⟩ := ha
  obtain ⟨hxh, hxl⟩ := hx
  have hc := c.toNat_le
  unfold bcdSum Claims.bcdValue
  omega

/-- After the first correction the low digit is that of the decimal sum, its tens stand above, and CY holds what
no longer fits into the byte. -/
theorem State.daLow_addCore (ha : Claims.isBcd s.a) (hx : Claims.isBcd x) :
    (s.addCore x c).daLow % 256 = (bcdSum s.a x c / 10 * 16 + bcdSum s.a x c % 10) % 256 ∧
    ((s.addCore x c).daLowCarry = true ↔ bcdSum s.a x c / 10 * 16 + bcdSum s.a x c % 10 > 255) := by
  obtain ⟨hah, hal⟩ := ha
  obtain ⟨hxh, hxl⟩ := hx
  have hc := c.toNat_le
  simp only [State.daLowCarry, State.daLow, s.addCore_a, s.addCore_ac, s.addCore_cy, bcdSum, Claims.bcdValue,
    Bool.or_eq_true, decide_eq_true_eq]
  split <;> omega

/-- The second correction on the digits of a sum below 200: the hundred goes from the upper digit to the carry. -/
theorem bcd_highCorrection {tens ones : Nat} (htens : tens < 20) (hones : ones < 10) :
    ((tens * 16 + ones) % 256 / 16 > 9 ∨ tens * 16 + ones > 255 ↔ tens ≥ 10) ∧
    ((tens * 16 + ones) % 256 + if tens ≥ 10 then 96 else 0) % 256 = tens % 10 * 16 + ones ∧
    (tens * 16 + ones > 255 ∨ (tens * 16 + ones) % 256 + (if tens ≥ 10 then 96 else 0) > 255 ↔ tens ≥ 10) := by
  split <;> omega

/-- DA A after the addition: the last two digits of the decimal sum in A, its hundred in CY. -/
theorem State.daCore_addCore (ha : Claims.isBcd s.a) (hx : Claims.isBcd x) :
    (s.addCore x c).daCore.a.toNat = bcdSum s.a x c / 10 % 10 * 16 + bcdSum s.a x c % 10 ∧
    (s.addCore x c).daCore.cy = decide (bcdSum s.a x c / 10 ≥ 10) := by
  obtain ⟨hlow, hcarry⟩ := State.daLow_addCore (c := c) ha hx
  have hsum := bcdSum_lt (c := c) ha hx
  obtain ⟨hcond, hbyte, hhundred⟩ :=
    bcd_highCorrection (tens := bcdSum s.a x c / 10) (ones := bcdSum s.a x c % 10) (by omega) (by omega)
  rw [State.daCore_a, State.daCore_cy, Bool.eq_iff_iff]
  simp only [State.daHigh, Bool.or_eq_true, decide_eq_true_eq, hlow, hcarry, hcond]
  exact ⟨hbyte, hhundred⟩

end Sys2Proof.Machine

namespace Sys2Proof.Proofs
open Sys2Proof.Machine

/-- Settles O28: the fields of the two cores, and OV by the two carries around bit 7. -/
theorem overflowIsSignedOverflow : Obligations.OverflowIsSignedOverflow := by
  intro s x c
  have haddCy : (s.addCore x c).cy = true ↔ s.a.toNat + x.toNat + c.toNat > 255 := by
    rw [s.addCore_cy, decide_eq_true_eq]
  have hsubCy : (s.subCore x c).cy = true ↔ (s.a.toNat : Int) - x.toNat - c.toNat < 0 := by
    rw [s.subCore_cy, decide_eq_true_eq]
    omega
  exact ⟨⟨added_addCore s x c, portAs_addCore s x c, s.addCore_pc x c⟩, s.addCore_ov_iff x c, haddCy,
    ⟨subtracted_subCore s x c, portAs_subCore s x c, s.subCore_pc x c⟩, s.subCore_ov_iff x c, hsubCy⟩

/-- Settles O35: `State.daCore_addCore`, with the digits put together again. -/
theorem daCorrectsBcdAddition : Obligations.DaCorrectsBcdAddition := by
  intro s x c ha hx
  obtain ⟨hbyte, hcy⟩ := State.daCore_addCore (c := c) ha hx
  refine ⟨_, rfl, ?_, ?_⟩
  · show Claims.isBcd (s.addCore x c).daCore.a
    unfold Claims.isBcd
    omega
  · show Claims.bcdValue (s.addCore x c).daCore.a + 100 * (s.addCore x c).daCore.cy.toNat = bcdSum s.a x c
    have hsum := bcdSum_lt (c := c) ha hx
    rw [hcy, Claims.bcdValue, hbyte, Bool.toNat, Bool.cond_decide]
    split <;> omega

/-- Settles O26: every form adds by `addCore`; a direct operand is read at the port first. -/
theorem addAndAddcResults : Obligations.AddAndAddcResults := fun s =>
  ⟨fun _ => runs_addCore rfl rfl (operandRead_refl s), fun d => runs_addCore rfl rfl (operandRead_dRead s d),
    fun _ => runs_addCore rfl rfl (operandRead_refl s), fun _ => runs_addCore rfl rfl (operandRead_refl s),
    fun _ => runs_addCore rfl rfl (operandRead_refl s), fun d => runs_addCore rfl rfl (operandRead_dRead s d),
    fun _ => runs_addCore rfl rfl (operandRead_refl s), fun _ => runs_addCore rfl rfl (operandRead_refl s)⟩

/-- Settles O27: every form subtracts by `subCore`; a direct operand is read at the port first. -/
theorem subbResults : Obligations.SubbResults := fun s =>
  ⟨fun _ => runs_subCore rfl rfl (operandRead_refl s), fun d => runs_subCore rfl rfl (operandRead_dRead s d),
    fun _ => runs_subCore rfl rfl (operandRead_refl s), fun _ => runs_subCore rfl rfl (operandRead_refl s)⟩

/-- Settles O29: A by `runs_writeA`; INC DPTR writes DPTR alone. -/
theorem incDecOfAAndDptr : Obligations.IncDecOfAAndDptr := by
  intro s
  refine ⟨runs_writeA rfl rfl (byte_succ_toNat s.a), runs_writeA rfl rfl (byte_pred_toNat s.a),
    runs_advance rfl rfl rfl ⟨BitVec.toNat_add s.dptr 1, ?_, rfl, rfl, rfl⟩⟩
  exact frame_advance (frame_setDptr s _ (by simp)) 1

/-- Settles O30: each form writes one byte of IRAM, whose address PSW and the pointer give before the write. -/
theorem incDecOfRegisterAndIndirect : Obligations.IncDecOfRegisterAndIndirect := fun _ hs =>
  ⟨fun _ => runs_iramWrite hs rfl rfl rfl (byte_succ_toNat _),
    fun _ => runs_iramWrite hs rfl rfl rfl (byte_succ_toNat _),
    fun _ => runs_iramWrite hs rfl rfl rfl (byte_pred_toNat _),
    fun _ => runs_iramWrite hs rfl rfl rfl (byte_pred_toNat _)⟩

/-- Settles O31: both forms are a routed read and then a routed write. -/
theorem incDecOfDirect : Obligations.IncDecOfDirect := fun _ _ hs =>
  ⟨runs_directModified hs rfl rfl, runs_directModified hs rfl rfl⟩

/-- Settles O32: the fields of `mulCore`. -/
theorem mulResult : Obligations.MulResult := fun s =>
  runs_advance rfl rfl s.mulCore_pc ⟨s.mulCore_product, s.mulCore_p, s.mulCore_cy, s.mulCore_ov,
    frame_advance (frame_mulCore s (by simp) (by simp) (by simp) (by simp) (by simp)) 1, rfl, rfl, rfl⟩

/-- Settles O33: the fields of `divCore`, whose quotient and remainder are those of the natural numbers. -/
theorem divResult : Obligations.DivResult := by
  intro s
  refine runs_advance rfl rfl s.divCore_pc
    ⟨s.divCore_cy, ⟨s.divCore_inputs, s.divCore_draws, s.divCore_trace⟩, fun hz => ?_, fun hz => ?_⟩
  · exact ⟨s.divCore_ov.trans (decide_eq_true hz), frame_advance (frame_divCore_zero s hz (by simp) (by simp)) 1⟩
  · have hpos : 0 < s.b.toNat := Nat.pos_of_ne_zero fun h => hz (BitVec.eq_of_toNat_eq h)
    have hdivision : s.divCore.a.toNat * s.b.toNat + s.divCore.b.toNat = s.a.toNat := by
      rw [s.divCore_quotient hz, s.divCore_remainder hz, Nat.div_add_mod']
    have hremainder : s.divCore.b.toNat < s.b.toNat := s.divCore_remainder hz ▸ Nat.mod_lt _ hpos
    exact ⟨hdivision, hremainder, s.divCore_p hz, s.divCore_ov.trans (decide_eq_false hz),
      frame_advance (frame_divCore s (by simp) (by simp) (by simp) (by simp) (by simp)) 1⟩

/-- Settles O34: the two sums are `State.daLow` and `State.daHigh`. -/
theorem daResult : Obligations.DaResult := fun s =>
  ⟨rfl, _, rfl, s.daLow, s.daHigh, s.daLowCarry, rfl, rfl, rfl, s.daCore_a, s.daCore_cy, s.daCore_p,
    goes_advance s.daCore_pc 1, frame_advance (frame_daCore s (by simp) (by simp) (by simp)) 1, rfl, rfl, rfl⟩

end Sys2Proof.Proofs
end

section
/-! PROOFS. The logical instructions (O36 to O38). A form that writes A reads its operand first and ends in `writeA`
(`runs_accumulator`); a form that writes a direct address is a routed read-modify-write (`runs_directModified`).
The model rotates by shifts; each byte it leaves is read here as two fields side by side, taken from A, or from A
and CY. -/
namespace Sys2Proof.Machine

variable {s t u : State} {i : Instr} {bytes : List Byte} {len : Nat}

/-! ## The shape of a form that writes A -/

theorem aIs_of_parity {v : Byte} (ha : t.a = v) (hp : t.p = parity t.a) : Claims.AIs v t := ⟨ha, ha ▸ hp⟩

/-- A form that reads its operand, writes `v` to A and advances PC. -/
theorem runs_accumulator {v : Byte} (hbytes : encode i = bytes)
    (hexec : exec i s = .next ((u.writeA v).advance len)) (hread : OperandRead s u) :
    Claims.Runs i bytes s fun t =>
      Claims.Goes len s t ∧ Claims.AIs v t ∧ Frame [.a] [0] [] [] s t ∧ PortAs u t := by
  obtain ⟨hpc, -, hframe⟩ := hread
  have hwritten : Frame [.a] [0] [] [] s (u.writeA v) :=
    hframe.of_nothing.trans (frame_writeA u v (by simp) (by simp))
  exact runs_advance hbytes hexec hpc
    ⟨aIs_of_parity rfl (u.writeA_p v), frame_advance hwritten len, rfl, rfl, rfl⟩

/-! ## Shifts of a byte as fields side by side -/

theorem append_zero_or_zero_append {m n : Nat} (x : BitVec m) (y : BitVec n) :
    x ++ 0#n ||| 0#m ++ y = x ++ y := by
  rw [BitVec.or_append, BitVec.or_zero, BitVec.zero_or]

theorem ofBool_getLsbD {n : Nat} (x : BitVec n) (k : Nat) : BitVec.ofBool (x.getLsbD k) = x.extractLsb' k 1 := by
  ext j hj
  obtain rfl : j = 0 := by omega
  simp

/-- `RL A`: bit k goes to bit k+1, bit 7 to bit 0 (`41_logical.md` R191). -/
theorem byte_rotateLeft (v : Byte) : v <<< 1 ||| v >>> 7 = v.extractLsb' 0 7 ++ v.extractLsb' 7 1 := by
  rw [BitVec.shiftLeft_eq_concat_of_lt (by decide), BitVec.ushiftRight_eq_extractLsb'_of_lt (by decide)]
  exact append_zero_or_zero_append _ _

/-- `SWAP A`: the two digits change places (`41_logical.md` R195). -/
theorem byte_swapDigits (v : Byte) : v <<< 4 ||| v >>> 4 = v.extractLsb' 0 4 ++ v.extractLsb' 4 4 := by
  rw [BitVec.shiftLeft_eq_concat_of_lt (by decide), BitVec.ushiftRight_eq_extractLsb'_of_lt (by decide)]
  exact append_zero_or_zero_append _ _

/-- A shift to the left with the bit `c` coming in at bit 0. -/
theorem byte_shiftLeft_in (v : Byte) (c : Bool) :
    v <<< 1 ||| (BitVec.ofBool c).setWidth 8 = v.extractLsb' 0 7 ++ BitVec.ofBool c := by
  rw [BitVec.shiftLeft_eq_concat_of_lt (by decide), BitVec.setWidth_eq_append (by decide)]
  exact append_zero_or_zero_append _ _

/-- A shift to the right with the bit `c` coming in at bit 7. -/
theorem byte_shiftRight_in (v : Byte) (c : Bool) :
    v >>> 1 ||| (BitVec.ofBool c).setWidth 8 <<< 7 = BitVec.ofBool c ++ v.extractLsb' 1 7 := by
  have hbit : ((BitVec.ofBool c).setWidth 8).extractLsb' 0 1 = BitVec.ofBool c :=
    (BitVec.extractLsb'_setWidth_of_le (by decide)).trans BitVec.extractLsb'_eq_self
  rw [BitVec.or_comm, BitVec.shiftLeft_eq_concat_of_lt (by decide),
    BitVec.ushiftRight_eq_extractLsb'_of_lt (by decide)]
  exact (append_zero_or_zero_append _ _).trans (congrArg (· ++ v.extractLsb' 1 7) hbit)

/-- `RR A`: bit k goes to bit k-1, bit 0 to bit 7 (`41_logical.md` R193). -/
theorem byte_rotateRight (v : Byte) :
    v >>> 1 ||| (v &&& 1) <<< 7 = v.extractLsb' 0 1 ++ v.extractLsb' 1 7 := by
  have hbit : v &&& 1 = (BitVec.ofBool (v.getLsbD 0)).setWidth 8 := BitVec.and_one_eq_setWidth_ofBool_getLsbD
  rw [hbit, byte_shiftRight_in, ofBool_getLsbD]

/-! ## The byte each form on A alone leaves in A -/

theorem execCplA_eq (s : State) : execCplA s = .next ((s.writeA (~~~s.a)).advance 1) := by
  rw [execCplA, ← BitVec.xor_allOnes]
  rfl

theorem execRlA_eq (s : State) :
    execRlA s = .next ((s.writeA (s.a.extractLsb' 0 7 ++ s.a.extractLsb' 7 1)).advance 1) := by
  rw [execRlA, byte_rotateLeft]

theorem execRrA_eq (s : State) :
    execRrA s = .next ((s.writeA (s.a.extractLsb' 0 1 ++ s.a.extractLsb' 1 7)).advance 1) := by
  rw [execRrA, byte_rotateRight]

theorem execSwapA_eq (s : State) :
    execSwapA s = .next ((s.writeA (s.a.extractLsb' 0 4 ++ s.a.extractLsb' 4 4)).advance 1) := by
  rw [execSwapA, byte_swapDigits]

theorem State.rlcCore_a (s : State) : s.rlcCore.a = s.a.extractLsb' 0 7 ++ s.psw.extractLsb' 7 1 := by
  rw [State.rlcCore, State.writeA_a, byte_shiftLeft_in, State.cy, ofBool_getLsbD]

theorem State.rrcCore_a (s : State) : s.rrcCore.a = s.psw.extractLsb' 7 1 ++ s.a.extractLsb' 1 7 := by
  rw [State.rrcCore, State.writeA_a, byte_shiftRight_in, State.cy, ofBool_getLsbD]

end Sys2Proof.Machine

namespace Sys2Proof.Proofs
open Sys2Proof.Machine

/-- Settles O36: every form writes A by `runs_accumulator`; a direct operand is read at the port first. -/
theorem logicalToAccumulator : Obligations.LogicalToAccumulator := fun s =>
  ⟨fun _ => runs_accumulator rfl rfl (operandRead_refl s),
    fun d => runs_accumulator rfl rfl (operandRead_dRead s d),
    fun _ => runs_accumulator rfl rfl (operandRead_refl s),
    fun _ => runs_accumulator rfl rfl (operandRead_refl s),
    fun _ => runs_accumulator rfl rfl (operandRead_refl s),
    fun d => runs_accumulator rfl rfl (operandRead_dRead s d),
    fun _ => runs_accumulator rfl rfl (operandRead_refl s),
    fun _ => runs_accumulator rfl rfl (operandRead_refl s),
    fun _ => runs_accumulator rfl rfl (operandRead_refl s),
    fun d => runs_accumulator rfl rfl (operandRead_dRead s d),
    fun _ => runs_accumulator rfl rfl (operandRead_refl s),
    fun _ => runs_accumulator rfl rfl (operandRead_refl s)⟩

/-- Settles O37: every form is a routed read and then a routed write of the same address. -/
theorem logicalToDirect : Obligations.LogicalToDirect := fun _ _ hs =>
  ⟨runs_directModified hs rfl rfl, fun _ => runs_directModified hs rfl rfl,
    runs_directModified hs rfl rfl, fun _ => runs_directModified hs rfl rfl,
    runs_directModified hs rfl rfl, fun _ => runs_directModified hs rfl rfl⟩

/-- Settles O38: A alone by `runs_accumulator`, with the byte written as moved fields; RLC and RRC write CY as
well. -/
theorem accumulatorOnlyResults : Obligations.AccumulatorOnlyResults := by
  intro s
  have hread : OperandRead s s := operandRead_refl s
  refine ⟨runs_accumulator rfl rfl hread, runs_accumulator rfl (execCplA_eq s) hread,
    runs_accumulator rfl (execRlA_eq s) hread, ?rlc, runs_accumulator rfl (execRrA_eq s) hread, ?rrc,
    runs_accumulator rfl (execSwapA_eq s) hread⟩
  case rlc =>
    exact runs_advance rfl rfl s.rlcCore_pc ⟨aIs_of_parity s.rlcCore_a s.rlcCore_p, s.rlcCore_cy,
      frame_advance (frame_rlcCore s (by simp) (by simp) (by simp)) 1, rfl, rfl, rfl⟩
  case rrc =>
    exact runs_advance rfl rfl s.rrcCore_pc ⟨aIs_of_parity s.rrcCore_a s.rrcCore_p, s.rrcCore_cy,
      frame_advance (frame_rrcCore s (by simp) (by simp) (by simp)) 1, rfl, rfl, rfl⟩

end Sys2Proof.Proofs
end

section
/-! PROOFS. Data transfer (O39 to O47). A form loads A (`runs_accumulator`), stores a byte of IRAM
(`runs_iramStore`), stores at a direct address (`runs_directStore`), or exchanges A with a byte of IRAM
(`runs_exchange`). The bound of a form with a check, and what it does short of it, its `_eq` lemma says. -/
namespace Sys2Proof.Machine

variable {s t u : State} {i : Instr} {bytes : List Byte} {len : Nat} {c d v w : Byte}
variable {regs : List Reg} {flags : List Nat} {cells : List Byte} {xcells : List Nat}

/-! ## What a frame keeps of the addressing -/

/-- Where RS1 and RS0 are kept, a register is found where it was. -/
theorem Frame.regRead (h : Frame regs flags cells xcells s t) (h4 : 4 ∉ flags) (h3 : 3 ∉ flags) (n : RegIndex) :
    t.regRead n = t.iramRead (s.regAddr n) := by
  obtain ⟨-, hflags, -⟩ := h
  rw [State.regRead, State.regAddr_of_bits (hflags 4 (by decide) h4) (hflags 3 (by decide) h3)]

/-- No instruction changes which direct writes go to the port. -/
theorem Frame.writesPort (h : Frame regs flags cells xcells s t) (d : Byte) : t.writesPort d = s.writesPort d := by
  obtain ⟨-, -, -, -, -, -, -, -, hout⟩ := h
  rw [State.writesPort, State.writesPort, hout]

/-! ## Completions -/

theorem runs_imp {P Q : State → Prop} (h : Claims.Runs i bytes s P) (hPQ : ∀ t, P t → Q t) :
    Claims.Runs i bytes s Q := by
  obtain ⟨hbytes, t, hexec, hP⟩ := h
  exact ⟨hbytes, t, hexec, hPQ t hP⟩

/-! ## Stores -/

/-- A form that reads its operand, stores `v` at `c` in IRAM and advances PC. -/
theorem runs_iramStore (hbytes : encode i = bytes) (hexec : exec i s = .next ((u.iramWrite c v).advance len))
    (hread : OperandRead s u) (hu : u.Legal) :
    Claims.Runs i bytes s fun t =>
      Claims.Goes len s t ∧ t.iramRead c = v ∧ Frame [] [] [c] [] s t ∧ PortAs u t := by
  obtain ⟨hpc, -, hframe⟩ := hread
  have hstored : Frame [] [] [c] [] s (u.iramWrite c v) :=
    hframe.of_nothing.trans (frame_iramWrite u c v (by simp))
  exact runs_advance hbytes hexec hpc
    ⟨u.iramRead_iramWrite_self c v hu.iramWf, frame_advance hstored len, rfl, rfl, rfl⟩

/-- The same of a register, which is a byte of IRAM. -/
theorem runs_regStore {n : RegIndex} (hbytes : encode i = bytes)
    (hexec : exec i s = .next ((u.iramWrite (s.regAddr n) v).advance len)) (hread : OperandRead s u)
    (hu : u.Legal) :
    Claims.Runs i bytes s fun t =>
      Claims.Goes len s t ∧ t.regRead n = v ∧ Frame [] [] [s.regAddr n] [] s t ∧ PortAs u t :=
  runs_imp (runs_iramStore hbytes hexec hread hu) fun _ ⟨hgoes, hv, hframe, hport⟩ =>
    ⟨hgoes, (hframe.regRead (by simp) (by simp) n).trans hv, hframe, hport⟩

/-- A routed write changes the byte `cellsOf` names, whatever has been changed before it. -/
theorem frame_dWrite_cellsOf (h : Frame regs flags (Claims.cellsOf s d) xcells s u) (v : Byte) :
    Frame regs flags (Claims.cellsOf s d) xcells s (u.dWrite d v) :=
  h.trans (frame_dWrite u d v fun hp => mem_cellsOf ((h.writesPort d).symm.trans hp))

/-- A form that reads its operand, stores `v` at direct address `d` and advances PC. -/
theorem runs_directStore (hbytes : encode i = bytes) (hexec : exec i s = .next ((u.dWrite d v).advance len))
    (hread : OperandRead s u) (hu : u.Legal) :
    Claims.Runs i bytes s fun t =>
      Claims.Goes len s t ∧ Claims.DirectWritten u d v t ∧ Frame [] [] (Claims.cellsOf s d) [] s t := by
  obtain ⟨hpc, -, hframe⟩ := hread
  exact runs_advance hbytes hexec ((u.dWrite_pc d v).trans hpc)
    ⟨directWritten_dWrite d v hu.iramWf, frame_advance (frame_dWrite_cellsOf hframe.of_nothing v) len⟩

/-- The register and the pointer cell are found where they were before the direct operand was read. -/
theorem execMovRnDirect_eq (n : RegIndex) (d : Byte) (s : State) : execMovRnDirect n d s =
    .next (((s.dRead d).2.iramWrite (s.regAddr n) (s.dRead d).1).advance 2) := by
  rw [execMovRnDirect, State.regWrite_eq, State.dRead_regAddr]

theorem execMovIndDirect_eq (p : PtrIndex) (d : Byte) (s : State) : execMovIndDirect p d s =
    .next (((s.dRead d).2.iramWrite (s.ptr p) (s.dRead d).1).advance 2) := by
  rw [execMovIndDirect, State.indWrite_eq, State.dRead_ptr]

/-! ## MOVC and MOVX: one address, checked against one size -/

/-- A load of A with `v` from address `n` of a memory of `size` bytes. -/
theorem fault_or_loads {size n : Nat} (hbytes : encode i = bytes)
    (hexec : exec i s = if size ≤ n then .fault .memoryFault else .next ((s.writeA v).advance len)) :
    (n ≥ size → exec i s = .fault .memoryFault) ∧
    (n < size → Claims.Runs i bytes s fun t =>
      Claims.Goes len s t ∧ Claims.AIs v t ∧ Frame [.a] [0] [] [] s t ∧ PortAs s t) := by
  refine ⟨fun h => hexec.trans (if_pos h), fun h => ?_⟩
  exact runs_accumulator hbytes (hexec.trans (if_neg (Nat.not_le_of_lt h))) (operandRead_refl s)

/-- A store of `v` at address `n` of XDATA. -/
theorem fault_or_xdataStores {n : Nat} (hs : s.Legal) (hbytes : encode i = bytes)
    (hexec : exec i s = if s.xdataSize ≤ n then .fault .memoryFault else .next ((s.setXdata n v).advance len)) :
    (n ≥ s.xdataSize → exec i s = .fault .memoryFault) ∧
    (n < s.xdataSize → Claims.Runs i bytes s fun t =>
      Claims.Goes len s t ∧ t.xdata.read n = v ∧ Frame [] [] [] [n] s t ∧ PortAs s t) := by
  obtain ⟨-, -, ⟨hwf, -⟩, -⟩ := hs
  refine ⟨fun h => hexec.trans (if_pos h), fun h => ?_⟩
  exact runs_advance hbytes (hexec.trans (if_neg (Nat.not_le_of_lt h))) rfl
    ⟨Memory.read_write_self s.xdata n v hwf, frame_advance (frame_setXdata s n v (by simp)) len, rfl, rfl, rfl⟩

/-! ## PUSH and POP -/

/-- PUSH stores the operand at SP + 1, then moves SP. -/
theorem runs_push (hs : s.Legal) (h : s.sp ≠ 0xFF) :
    Claims.Runs (.push d) [0xC0, d] s fun t =>
      Claims.Goes 2 s t ∧ t.sp = s.sp + 1 ∧ t.iramRead (s.sp + 1) = (s.dRead d).1 ∧
      Frame [.sp] [] [s.sp + 1] [] s t ∧ PortAs (s.dRead d).2 t := by
  have hframe : Frame [.sp] [] [s.sp + 1] [] s
      (((s.dRead d).2.iramWrite (s.sp + 1) (s.dRead d).1).setSp (s.sp + 1)) :=
    ((frame_dRead s d).trans (frame_iramWrite _ _ _ (by simp))).trans (frame_setSp _ _ (by simp))
  exact runs_advance rfl ((execPush_eq d s).trans (if_neg h)) (s.dRead_pc d)
    ⟨rfl, State.iramRead_iramWrite_self _ _ _ (hs.dRead d).iramWf, frame_advance hframe 2, rfl, rfl, rfl⟩

/-- POP moves SP, then makes the routed write of the old top of stack. -/
theorem runs_pop (hs : s.Legal) (h : s.sp ≠ 0x00) :
    Claims.Runs (.pop d) [0xD0, d] s fun t =>
      Claims.Goes 2 s t ∧ t.sp = s.sp - 1 ∧ Claims.DirectWritten s d (s.iramRead s.sp) t ∧
      Frame [.sp] [] (Claims.cellsOf s d) [] s t := by
  have hwritten : Claims.DirectWritten (s.setSp (s.sp - 1)) d (s.iramRead s.sp)
      ((s.setSp (s.sp - 1)).dWrite d (s.iramRead s.sp)) := directWritten_dWrite d _ hs.iramWf
  have hframe : Frame [.sp] [] (Claims.cellsOf s d) [] s (s.setSp (s.sp - 1)) := frame_setSp s _ (by simp)
  exact runs_advance rfl ((execPop_eq d s).trans (if_neg h)) (State.dWrite_pc ..)
    ⟨State.dWrite_sp .., hwritten, frame_advance (frame_dWrite_cellsOf hframe _) 2⟩

/-! ## XCH and XCHD -/

/-- A form that stores `v` at `c` in IRAM, writes `w` to A and advances PC. -/
theorem runs_exchange (hs : s.Legal) (hbytes : encode i = bytes)
    (hexec : exec i s = .next (((s.iramWrite c v).writeA w).advance len)) :
    Claims.Runs i bytes s fun t =>
      Claims.Goes len s t ∧ Claims.AIs w t ∧ t.iramRead c = v ∧ Frame [.a] [0] [c] [] s t ∧ PortAs s t := by
  have hframe : Frame [.a] [0] [c] [] s ((s.iramWrite c v).writeA w) :=
    (frame_iramWrite s c v (by simp)).trans (frame_writeA _ w (by simp) (by simp))
  exact runs_advance hbytes hexec rfl
    ⟨aIs_of_parity rfl (State.writeA_p _ w), s.iramRead_iramWrite_self c v hs.iramWf, frame_advance hframe len,
      rfl, rfl, rfl⟩

/-- `XCH A,direct`: one routed read, one routed write of A, then A. -/
theorem runs_xchADirect (hs : s.Legal) (d : Byte) :
    Claims.Runs (.xchADirect d) [0xC5, d] s fun t => Claims.Goes 2 s t ∧ Claims.AIs (s.dRead d).1 t ∧
      Claims.DirectWritten (s.dRead d).2 d s.a t ∧ Frame [.a] [0] (Claims.cellsOf s d) [] s t := by
  have hwritten : Claims.DirectWritten (s.dRead d).2 d s.a ((s.dRead d).2.dWrite d s.a) :=
    directWritten_dWrite d s.a (hs.dRead d).iramWf
  have hframe : Frame [.a] [0] (Claims.cellsOf s d) [] s
      (((s.dRead d).2.dWrite d s.a).writeA (s.dRead d).1) :=
    (frame_dWrite_cellsOf (frame_dRead s d) s.a).trans (frame_writeA _ _ (by simp) (by simp))
  exact runs_advance rfl rfl ((State.dWrite_pc ..).trans (s.dRead_pc d))
    ⟨aIs_of_parity rfl (State.writeA_p _ _), hwritten, frame_advance hframe 2⟩

/-- The high digit of one byte with the low digit of another. -/
theorem byte_highDigit_lowDigit (x y : Byte) :
    x &&& 0xF0 ||| y &&& 0x0F = x.extractLsb' 4 4 ++ y.extractLsb' 0 4 := by
  have hhigh : ∀ x : Byte, x &&& 0xF0 = x.extractLsb' 4 4 ++ 0#4 := by decide
  have hlow : ∀ y : Byte, y &&& 0x0F = 0#4 ++ y.extractLsb' 0 4 := by decide
  rw [hhigh, hlow]
  exact append_zero_or_zero_append _ _

theorem execXchdAInd_eq (p : PtrIndex) (s : State) : execXchdAInd p s =
    .next (((s.iramWrite (s.ptr p) ((s.indRead p).extractLsb' 4 4 ++ s.a.extractLsb' 0 4)).writeA
      (s.a.extractLsb' 4 4 ++ (s.indRead p).extractLsb' 0 4)).advance 1) := by
  rw [execXchdAInd, State.indWrite_eq, byte_highDigit_lowDigit, byte_highDigit_lowDigit]

end Sys2Proof.Machine

namespace Sys2Proof.Proofs
open Sys2Proof.Machine

/-- Settles O39: every form loads A by `runs_accumulator`; a direct operand is read at the port first. -/
theorem movToAccumulator : Obligations.MovToAccumulator := fun s =>
  ⟨fun _ => runs_accumulator rfl rfl (operandRead_refl s),
    fun d => runs_accumulator rfl rfl (operandRead_dRead s d),
    fun _ => runs_accumulator rfl rfl (operandRead_refl s), fun _ => runs_accumulator rfl rfl (operandRead_refl s)⟩

/-- Settles O40: a register by `runs_regStore`; the word of MOV DPTR is built from its two bytes. -/
theorem movToRegister : Obligations.MovToRegister := by
  intro s hs
  refine ⟨fun _ => runs_regStore rfl rfl (operandRead_refl s) hs,
    fun n d => runs_regStore rfl (execMovRnDirect_eq n d s) (operandRead_dRead s d) (hs.dRead d),
    fun _ _ => runs_regStore rfl rfl (operandRead_refl s) hs, fun hi lo => ?dptr⟩
  case dptr =>
    obtain ⟨hhigh, hlow⟩ := word_halves hi lo
    have hbytes : encode (.movDptrImm (hi ++ lo)) = [0x90, hi, lo] := by rw [encode, hhigh, hlow]
    exact runs_advance hbytes rfl rfl
      ⟨word_toNat hi lo, frame_advance (frame_setDptr s _ (by simp)) 3, rfl, rfl, rfl⟩

/-- Settles O41: every form stores by `runs_directStore`; a direct source is read at the port first. -/
theorem movToDirect : Obligations.MovToDirect := fun s _ hs =>
  ⟨runs_directStore rfl rfl (operandRead_refl s) hs, fun _ => runs_directStore rfl rfl (operandRead_refl s) hs,
    fun src => runs_directStore rfl rfl (operandRead_dRead s src) (hs.dRead src),
    fun _ => runs_directStore rfl rfl (operandRead_refl s) hs,
    fun _ => runs_directStore rfl rfl (operandRead_refl s) hs⟩

/-- Settles O42: every form stores by `runs_iramStore` at the pointer held before the write. -/
theorem movToIndirect : Obligations.MovToIndirect := fun s p hs =>
  ⟨runs_iramStore rfl rfl (operandRead_refl s) hs,
    fun d => runs_iramStore rfl (execMovIndDirect_eq p d s) (operandRead_dRead s d) (hs.dRead d),
    fun _ => runs_iramStore rfl rfl (operandRead_refl s) hs⟩

/-- Settles O43: `fault_or_loads` of CODE, with both addresses as numbers. -/
theorem movcReadsCode : Obligations.MovcReadsCode := by
  intro s
  rw [← s.aPlusDptr_toNat, ← s.aPlusPc_toNat]
  obtain ⟨hdptrFault, hdptr⟩ := fault_or_loads (i := .movcADptr) rfl (execMovcADptr_eq s)
  obtain ⟨hpcFault, hpc⟩ := fault_or_loads (i := .movcAPc) rfl (execMovcAPc_eq s)
  exact ⟨hdptrFault, hdptr, hpcFault, hpc⟩

/-- Settles O44: `fault_or_loads` of XDATA, at the pointer and at DPTR. -/
theorem movxReadsXdata : Obligations.MovxReadsXdata := by
  intro s p
  obtain ⟨hptrFault, hptr⟩ := fault_or_loads (i := .movxAInd p) rfl (execMovxAInd_eq p s)
  obtain ⟨hdptrFault, hdptr⟩ := fault_or_loads (i := .movxADptr) rfl (execMovxADptr_eq s)
  exact ⟨hptrFault, hptr, hdptrFault, hdptr⟩

/-- Settles O45: `fault_or_xdataStores`, at the pointer and at DPTR. -/
theorem movxWritesXdata : Obligations.MovxWritesXdata := by
  intro s p hs
  obtain ⟨hptrFault, hptr⟩ := fault_or_xdataStores (i := .movxIndA p) hs rfl (execMovxIndA_eq p s)
  obtain ⟨hdptrFault, hdptr⟩ := fault_or_xdataStores (i := .movxDptrA) hs rfl (execMovxDptrA_eq s)
  exact ⟨hptrFault, hptr, hdptrFault, hdptr⟩

/-- Settles O46: at the bound each form faults; short of it, `runs_push` and `runs_pop`. -/
theorem pushAndPopResults : Obligations.PushAndPopResults := fun s d hs =>
  ⟨fun h => (execPush_eq d s).trans (if_pos h), runs_push hs, fun h => (execPop_eq d s).trans (if_pos h),
    runs_pop hs⟩

/-- Settles O47: a byte of IRAM by `runs_exchange`; writing P leaves the register where it was. -/
theorem exchangeResults : Obligations.ExchangeResults := by
  intro s hs
  refine ⟨fun n => ?register, runs_xchADirect hs, fun _ => runs_exchange hs rfl rfl,
    fun p => runs_exchange hs rfl (execXchdAInd_eq p s)⟩
  case register =>
    exact runs_imp (runs_exchange hs rfl rfl) fun _ ⟨hgoes, ha, hbyte, hframe, hport⟩ =>
      ⟨hgoes, ha, (hframe.regRead (by simp) (by simp) n).trans hbyte, hframe, hport⟩

end Sys2Proof.Proofs
end

section
/-! PROOFS. The Boolean instructions (O48 to O52). A form reads its operand and sets CY (`runs_setCy`), replaces one
bit of a byte by a routed read and a routed write (`runs_bitWrite`), or jumps on a condition (`runs_branch`); JBC is
the two cases of `execJbc_eq`. -/
namespace Sys2Proof.Machine

variable {s u : State} {i : Instr} {bytes : List Byte} {len : Nat} {b e : Byte} {v taken : Bool}

/-! ## The bit operand -/

/-- The bit of a bit operand, by its position as a number. -/
theorem State.bitRead_fst (s : State) (b : Byte) :
    (s.bitRead b).1 = (s.dRead (bitByte b)).1.getLsbD (b.toNat % 8) := by
  rw [State.bitRead, bitPos_eq]

/-- The routed write of a bit operand stores the byte as R74 writes it. -/
theorem State.bitWrite_byteWithBit (s : State) (b : Byte) (v : Bool) : s.bitWrite b v =
    (s.dRead (bitByte b)).2.dWrite (bitByte b) (Claims.byteWithBit (s.dRead (bitByte b)).1 b v) := by
  rw [State.bitWrite_eq, setBit_bitPos]

/-- CPL writes the complement of the bit it has read (`43_boolean.md` R246). -/
theorem execCplBit_eq (b : Byte) (s : State) :
    execCplBit b s = .next ((s.bitWrite b (!(s.bitRead b).1)).advance 2) := by
  rw [State.bitWrite_eq, State.bitRead, setBit_not _ _ (bitPos_lt b)]
  rfl

/-- JBC clears the bit and jumps, or only goes on (`43_boolean.md` R257). -/
theorem execJbc_eq (b e : Byte) (s : State) : execJbc b e s =
    if (s.bitRead b).1 then .next ((s.bitWrite b false).jump (s.relTarget 3 e))
    else .next ((s.dRead (bitByte b)).2.advance 3) := by
  rw [State.bitWrite_eq, setBit_false _ _ (bitPos_lt b)]
  rfl

/-! ## Forms that set CY -/

theorem State.setCy_cy (s : State) (v : Bool) : (s.setCy v).cy = v := by
  rw [State.cy, State.setCy_eq, State.setPswBit_bit _ _ _ _ (by decide), if_pos rfl]

/-- A form that reads its operand, sets CY to `v` and advances PC. -/
theorem runs_setCy (hbytes : encode i = bytes) (hexec : exec i s = .next ((u.setCy v).advance len))
    (hread : OperandRead s u) :
    Claims.Runs i bytes s fun t =>
      Claims.Goes len s t ∧ t.cy = v ∧ Frame [] [7] [] [] s t ∧ PortAs u t := by
  obtain ⟨hpc, -, hframe⟩ := hread
  have hset : Frame [] [7] [] [] s (u.setCy v) :=
    hframe.of_nothing.trans (frame_setPswBit u 7 v (by decide) (by simp))
  exact runs_advance hbytes hexec hpc ⟨u.setCy_cy v, frame_advance hset len, rfl, rfl, rfl⟩

/-! ## Forms that replace one bit -/

/-- A form that replaces the bit of its operand by `v` and advances PC. -/
theorem runs_bitWrite (hs : s.Legal) (hbytes : encode i = bytes)
    (hexec : exec i s = .next ((s.bitWrite b v).advance len)) :
    Claims.Runs i bytes s
      (Claims.DirectModified len (bitByte b) (Claims.byteWithBit (s.dRead (bitByte b)).1 b v) s) := by
  rw [State.bitWrite_byteWithBit] at hexec
  exact runs_directModified hs hbytes hexec

theorem directWritten_bitWrite (hs : s.Legal) (b : Byte) (v : Bool) :
    Claims.DirectWritten (s.dRead (bitByte b)).2 (bitByte b) (Claims.byteWithBit (s.dRead (bitByte b)).1 b v)
      (s.bitWrite b v) := by
  rw [State.bitWrite_byteWithBit]
  exact directWritten_dWrite _ _ (hs.dRead (bitByte b)).iramWf

/-! ## Forms that jump on a condition -/

/-- The displacement is added to the address of the following instruction as a signed number. -/
theorem goesRel_branch (hpc : u.pc = s.pc) (taken : Bool) (len : Nat) (e : Byte) :
    Claims.GoesRel taken len e s (u.branch taken (s.relTarget len e) len) := by
  cases taken with
  | true => exact s.relTarget_toNat len e
  | false => exact goes_advance hpc len

/-- A form that reads its operand and jumps if `taken`. -/
theorem runs_branch (hbytes : encode i = bytes)
    (hexec : exec i s = .next (u.branch taken (s.relTarget len e) len)) (hread : OperandRead s u) :
    Claims.Runs i bytes s fun t =>
      Claims.GoesRel taken len e s t ∧ Frame [] [] [] [] s t ∧ PortAs u t := by
  obtain ⟨hpc, -, hframe⟩ := hread
  have hgoes := goesRel_branch hpc taken len e
  rw [State.branch_eq] at hexec hgoes
  exact ⟨hbytes, _, hexec, hgoes, hframe.trans (frame_jump u _), rfl, rfl, rfl⟩

end Sys2Proof.Machine

namespace Sys2Proof.Proofs
open Sys2Proof.Machine

/-- Settles O48: every form sets CY by `runs_setCy`, with no operand to read. -/
theorem carryResults : Obligations.CarryResults := fun s =>
  ⟨runs_setCy rfl rfl (operandRead_refl s), runs_setCy rfl rfl (operandRead_refl s),
    runs_setCy rfl rfl (operandRead_refl s)⟩

/-- Settles O49: every form replaces the bit by `runs_bitWrite`; CPL by the complement of the bit read. -/
theorem bitWriteResults : Obligations.BitWriteResults := by
  intro s b hs
  rw [← s.bitRead_fst b]
  exact ⟨runs_bitWrite hs rfl rfl, runs_bitWrite hs rfl rfl, runs_bitWrite hs rfl (execCplBit_eq b s),
    runs_bitWrite hs rfl rfl⟩

/-- Settles O50: every form reads the bit at the port or in IRAM, then sets CY by `runs_setCy`. -/
theorem carryAndBitResults : Obligations.CarryAndBitResults := by
  intro s b v hv
  obtain rfl : v = (s.bitRead b).1 := hv.trans (s.bitRead_fst b).symm
  have hread : OperandRead s (s.dRead (bitByte b)).2 := operandRead_dRead s (bitByte b)
  exact ⟨runs_setCy rfl rfl hread, runs_setCy rfl rfl hread, runs_setCy rfl rfl hread,
    runs_setCy rfl rfl hread, runs_setCy rfl rfl hread⟩

/-- Settles O51: every form jumps by `runs_branch`; JB and JNB read the bit first. -/
theorem carryAndBitJumps : Obligations.CarryAndBitJumps := by
  intro s b e v hv
  obtain rfl : v = (s.bitRead b).1 := hv.trans (s.bitRead_fst b).symm
  have hread : OperandRead s (s.dRead (bitByte b)).2 := operandRead_dRead s (bitByte b)
  exact ⟨runs_branch rfl rfl (operandRead_refl s), runs_branch rfl rfl (operandRead_refl s),
    runs_branch rfl rfl hread, runs_branch rfl rfl hread⟩

/-- Settles O52: the two cases of `execJbc_eq`. -/
theorem testAndClearJump : Obligations.TestAndClearJump := by
  intro s b e hs
  rw [← s.bitRead_fst b]
  cases hbit : (s.bitRead b).1 with
  | true =>
    have hexec := (execJbc_eq b e s).trans (if_pos hbit)
    have hframe : Frame [] [] (Claims.cellsOf s (bitByte b)) [] s (s.bitWrite b false) :=
      frame_bitWrite s b false mem_cellsOf
    exact ⟨rfl, _, hexec, fun _ => ⟨s.relTarget_toNat 3 e, directWritten_bitWrite hs b false,
      hframe.trans (frame_jump _ _)⟩, nofun⟩
  | false =>
    have hexec := (execJbc_eq b e s).trans (if_neg (ne_true_of_eq_false hbit))
    exact ⟨rfl, _, hexec, nofun, fun _ => ⟨goes_advance (s.dRead_pc _) 3, ⟨rfl, rfl, rfl⟩,
      frame_advance (frame_dRead s _) 3⟩⟩

end Sys2Proof.Proofs
end

section
/-! PROOFS. Control transfer (O53 to O60). ACALL and LCALL are one operation (`Calls`), RET and RETI another
(`Returns`); what the stack does in them is O25. A jump sets PC alone (`runs_jump`). A conditional form makes its
update, then branches (`runs_updateAndBranch`): CJNE sets CY first (`runs_compareJump`), DJNZ stores first. -/
namespace Sys2Proof.Machine

variable {s t u : State} {i back : Instr} {bytes : List Byte} {len m : Nat} {target w : Word} {x y v e : Byte}
variable {taken : Bool}

/-! ## Encodings of a target -/

theorem encode_acall (hi : BitVec 3) (lo : Byte) : encode (.acall (hi ++ lo)) = [hi ++ 0b10001#5, lo] := by
  obtain ⟨hhigh, hlow⟩ := page_halves hi lo
  rw [encode, hhigh, hlow]

theorem encode_ajmp (hi : BitVec 3) (lo : Byte) : encode (.ajmp (hi ++ lo)) = [hi ++ 0b00001#5, lo] := by
  obtain ⟨hhigh, hlow⟩ := page_halves hi lo
  rw [encode, hhigh, hlow]

theorem encode_lcall (hi lo : Byte) : encode (.lcall (hi ++ lo)) = [0x12, hi, lo] := by
  obtain ⟨hhigh, hlow⟩ := word_halves hi lo
  rw [encode, hhigh, hlow]

theorem encode_ljmp (hi lo : Byte) : encode (.ljmp (hi ++ lo)) = [0x02, hi, lo] := by
  obtain ⟨hhigh, hlow⟩ := word_halves hi lo
  rw [encode, hhigh, hlow]

/-! ## Calls and returns -/

/-- In `s`, `i` pushes the address of the instruction after it and goes to `target`. -/
def Calls (i : Instr) (target : Word) (s : State) : Prop :=
  exec i s = orRaise (s.pushWord (s.pcNext i.length)) fun t => .next (t.jump target)

/-- `i` pops a word and goes there. -/
def Returns (i : Instr) : Prop := ∀ s, exec i s = orRaise s.popWord fun r => .next (r.2.jump r.1)

theorem calls_acall (a : PageOffset) (s : State) : Calls (.acall a) (s.pageTarget a) s := rfl

theorem calls_lcall (a : Word) (s : State) : Calls (.lcall a) a s := rfl

theorem returns_ret : Returns .ret := fun _ => rfl

theorem returns_reti : Returns .reti := fun _ => rfl

theorem Calls.overflow (hcall : Calls i target s) (hs : s.Legal) (h : s.sp.toNat ≥ 0xFE) :
    exec i s = .fault .stackOverflow := by
  obtain ⟨hfull, -⟩ := Proofs.pushWordThenPopWord s (s.pcNext i.length) hs
  rw [hcall, hfull h, orRaise_error]

/-- The two bytes pushed are those of the return address. -/
theorem Calls.runs (hcall : Calls i target s) (hs : s.Legal) (h : s.sp.toNat < 0xFE) (hbytes : encode i = bytes)
    (htarget : target.toNat = m) :
    Claims.Runs i bytes s fun t => t.pc.toNat = m ∧ t.sp.toNat = s.sp.toNat + 2 ∧
      (t.iramRead (s.sp + 2)).toNat * 256 + (t.iramRead (s.sp + 1)).toNat = (s.pc.toNat + i.length) % 65536 ∧
      Frame [.sp] [] [s.sp + 1, s.sp + 2] [] s t ∧ PortAs s t := by
  obtain ⟨-, -, -, hpush⟩ := Proofs.pushWordThenPopWord s (s.pcNext i.length) hs
  obtain ⟨t, -, hok, hsp, hlow, hhigh, hframe, hport, -⟩ := hpush h
  have hword : (t.iramRead (s.sp + 2)).toNat * 256 + (t.iramRead (s.sp + 1)).toNat =
      (s.pc.toNat + i.length) % 65536 := by
    rw [hhigh, hlow, Nat.div_add_mod', State.pcNext_toNat]
  refine ⟨hbytes, t.jump target, ?_, htarget, hsp, hword, hframe.trans (frame_jump t target), hport⟩
  rw [hcall, hok, orRaise_ok]

theorem Returns.underflow (hret : Returns i) (h : s.sp.toNat ≤ 0x01) : exec i s = .fault .stackUnderflow := by
  have hempty : s.popWord = .error .stackUnderflow := if_pos h
  rw [hret, hempty, orRaise_error]

theorem Returns.runs (hret : Returns i) (h : s.sp.toNat > 0x01) (hbytes : encode i = bytes) :
    Claims.Runs i bytes s fun t =>
      t.pc.toNat = (s.iramRead s.sp).toNat * 256 + (s.iramRead (s.sp - 1)).toNat ∧
      t.sp.toNat = s.sp.toNat - 2 ∧ Frame [.sp] [] [] [] s t ∧ PortAs s t := by
  have hexec : exec i s = .next ((s.setSp (s.sp - 2)).jump (s.iramRead s.sp ++ s.iramRead (s.sp - 1))) := by
    rw [hret, State.popWord_of_gt (Nat.not_le_of_lt h), orRaise_ok]
  have hsp : (s.sp - 2).toNat = s.sp.toNat - 2 := by bv_omega
  obtain ⟨hframe, hport, -⟩ := stackFrame_setSp s (s.sp - 2)
  exact ⟨hbytes, _, hexec, word_toNat _ _, hsp, hframe.trans (frame_jump _ _), hport⟩

/-- A pop does not depend on PC. -/
theorem State.popWord_jump {r : Word × State} (h : s.popWord = .ok r) (w : Word) :
    (s.jump w).popWord = .ok (r.1, r.2.jump w) := by
  obtain ⟨hsp, rfl⟩ := (s.popWord_ok_iff r).1 h
  exact ((s.jump w).popWord_ok_iff _).2 ⟨hsp, rfl⟩

/-- The return pops what the call pushed (O25), from the state the call has left with PC at its target. -/
theorem Calls.thenReturns (hcall : Calls i target s) (hret : Returns back) (hs : s.Legal)
    (h : s.sp.toNat < 0xFE) :
    ∃ t u, exec i s = .next t ∧ exec back t = .next u ∧ Claims.Goes i.length s u ∧
      Frame [] [] [s.sp + 1, s.sp + 2] [] s u ∧ PortAs s u := by
  obtain ⟨-, -, -, hpush⟩ := Proofs.pushWordThenPopWord s (s.pcNext i.length) hs
  obtain ⟨t, u, hok, -, -, -, -, -, -, hpop, -, hframe, hport, -⟩ := hpush h
  refine ⟨t.jump target, (u.jump target).jump (s.pcNext i.length), ?_, ?_, s.pcNext_toNat _,
    (hframe.trans (frame_jump u _)).trans (frame_jump _ _), hport⟩
  · rw [hcall, hok, orRaise_ok]
  · rw [hret, State.popWord_jump hpop, orRaise_ok]

/-! ## Unconditional jumps -/

/-- A form that goes to `target` and does nothing else. -/
theorem runs_jump (hbytes : encode i = bytes) (hexec : exec i s = .next (s.jump target))
    (htarget : target.toNat = m) :
    Claims.Runs i bytes s fun t => t.pc.toNat = m ∧ Frame [] [] [] [] s t ∧ PortAs s t :=
  ⟨hbytes, _, hexec, htarget, frame_jump s target, rfl, rfl, rfl⟩

/-- The displacement FE is -2, the length of SJMP. -/
theorem State.relTarget_self (s : State) : s.relTarget 2 0xFE = s.pc := by
  have hback : BitVec.ofNat 16 2 + (0xFE : Byte).signExtend 16 = 0#16 := by decide
  rw [State.relTarget, State.pcNext, BitVec.add_assoc, hback, BitVec.add_zero]

/-! ## Conditional jumps -/

theorem State.relTarget_of_pc (h : u.pc = s.pc) (len : Nat) (e : Byte) : u.relTarget len e = s.relTarget len e := by
  rw [State.relTarget, State.relTarget, State.pcNext, State.pcNext, h]

/-- A form that updates the state to `u`, then jumps if `taken`. -/
theorem runs_updateAndBranch {Q : State → Prop} (hbytes : encode i = bytes)
    (hexec : exec i s = .next (u.branch taken (s.relTarget len e) len)) (hpc : u.pc = s.pc)
    (hQ : ∀ w, Claims.GoesRel taken len e s (u.jump w) → Q (u.jump w)) : Claims.Runs i bytes s Q := by
  have hgoes := goesRel_branch hpc taken len e
  rw [State.branch_eq] at hexec hgoes
  exact ⟨hbytes, _, hexec, hQ _ hgoes⟩

/-- CJNE compares its operands as unsigned bytes. -/
theorem runs_compareJump (hbytes : encode i = bytes) (hexec : exec i s = .next (u.compareJump x y e))
    (hread : OperandRead s u) :
    Claims.Runs i bytes s fun t => Claims.GoesRel (decide (x.toNat ≠ y.toNat)) 3 e s t ∧
      t.cy = decide (x.toNat < y.toNat) ∧ Frame [] [7] [] [] s t ∧ PortAs u t := by
  obtain ⟨hpc, -, hframe⟩ := hread
  have hset : Frame [] [7] [] [] s (u.setCy (decide (x < y))) :=
    hframe.of_nothing.trans (frame_setPswBit u 7 _ (by decide) (by simp))
  have hdiffer : decide (x ≠ y) = decide (x.toNat ≠ y.toNat) := decide_eq_decide.2 BitVec.toNat_ne_iff_ne.symm
  rw [State.compareJump, State.relTarget_of_pc hpc, hdiffer] at hexec
  exact runs_updateAndBranch hbytes hexec hpc fun w hgoes =>
    ⟨hgoes, u.setCy_cy _, hset.trans (frame_jump _ w), rfl, rfl, rfl⟩

/-- The byte less one is 0 exactly when the byte is 1. -/
theorem byte_pred_ne_zero_iff (v : Byte) : v - 1 ≠ 0 ↔ v.toNat ≠ 1 := by bv_omega

theorem execDjnzRn_eq (n : RegIndex) (e : Byte) (s : State) : execDjnzRn n e s =
    .next ((s.iramWrite (s.regAddr n) (s.regRead n - 1)).branch (decide ((s.regRead n).toNat ≠ 1))
      (s.relTarget 2 e) 2) := by
  rw [← decide_eq_decide.2 (byte_pred_ne_zero_iff _)]
  rfl

theorem execDjnzDirect_eq (d e : Byte) (s : State) : execDjnzDirect d e s =
    .next (((s.dRead d).2.dWrite d ((s.dRead d).1 - 1)).branch (decide ((s.dRead d).1.toNat ≠ 1))
      (s.relTarget 3 e) 3) := by
  rw [← decide_eq_decide.2 (byte_pred_ne_zero_iff _)]
  rfl

end Sys2Proof.Machine

namespace Sys2Proof.Proofs
open Sys2Proof.Machine

/-- Settles O55: `Calls.thenReturns`, for either call and either return. -/
theorem callThenReturnComesBack : Obligations.CallThenReturnComesBack := by
  intro s call back hs hsp hcall hback
  have hret : Returns back := by
    rcases hback with rfl | rfl
    · exact returns_ret
    · exact returns_reti
  rcases hcall with ⟨a, rfl⟩ | ⟨a, rfl⟩
  · exact (calls_acall a s).thenReturns hret hs hsp
  · exact (calls_lcall a s).thenReturns hret hs hsp

/-- Settles O53: both forms are `Calls`; ACALL's target lies in the page of the return address. -/
theorem callResults : Obligations.CallResults := fun s hs =>
  ⟨fun h => ⟨fun a => (calls_acall a s).overflow hs h, fun a => (calls_lcall a s).overflow hs h⟩,
    fun h => ⟨fun hi lo => (calls_acall _ s).runs hs h (encode_acall hi lo) (s.pageTarget_toNat hi lo),
      fun hi lo => (calls_lcall _ s).runs hs h (encode_lcall hi lo) (word_toNat hi lo)⟩⟩

/-- Settles O54: both forms are `Returns`. -/
theorem returnResults : Obligations.ReturnResults := fun _ =>
  ⟨fun h => ⟨returns_ret.underflow h, returns_reti.underflow h⟩,
    fun h => ⟨returns_ret.runs h rfl, returns_reti.runs h rfl⟩⟩

/-- Settles O56: `runs_jump` with each target as a number; SJMP is a branch always taken. -/
theorem jumpAndNopResults : Obligations.JumpAndNopResults := fun s =>
  ⟨fun hi lo => runs_jump (encode_ajmp hi lo) rfl (s.pageTarget_toNat hi lo),
    fun hi lo => runs_jump (encode_ljmp hi lo) rfl (word_toNat hi lo),
    fun _ => runs_branch (taken := true) rfl rfl (operandRead_refl s), runs_jump rfl rfl s.aPlusDptr_toNat,
    runs_jump rfl rfl (s.pcNext_toNat 1)⟩

/-- Settles O57: the bytes at PC are run as SJMP (O5), and its target is where it stands. -/
theorem selfJumpIsAFixedPoint : Obligations.SelfJumpIsAFixedPoint := by
  intro s h
  have hstep : step s = exec (.sjmp 0xFE) s := step_of_codeAtPc_encode (i := .sjmp 0xFE) h
  have hexec : exec (.sjmp 0xFE) s = .next (s.jump (s.relTarget 2 0xFE)) := rfl
  rw [hstep, hexec, s.relTarget_self]
  rfl

/-- Settles O58: `runs_branch` on A, which is 0 when its number is. -/
theorem accumulatorJumps : Obligations.AccumulatorJumps := by
  intro s e
  have hzero : decide (s.a.toNat = 0) = decide (s.a = 0) := decide_eq_decide.2 (BitVec.toNat_inj (y := 0))
  have hnonzero : decide (s.a.toNat ≠ 0) = decide (s.a ≠ 0) :=
    decide_eq_decide.2 (BitVec.toNat_ne_iff_ne (y := 0))
  rw [hzero, hnonzero]
  exact ⟨runs_branch rfl rfl (operandRead_refl s), runs_branch rfl rfl (operandRead_refl s)⟩

/-- Settles O59: every form compares by `runs_compareJump`; a direct operand is read at the port first. -/
theorem compareJumps : Obligations.CompareJumps := fun s _ =>
  ⟨fun d => runs_compareJump rfl rfl (operandRead_dRead s d),
    fun _ => runs_compareJump rfl rfl (operandRead_refl s),
    fun _ _ => runs_compareJump rfl rfl (operandRead_refl s),
    fun _ _ => runs_compareJump rfl rfl (operandRead_refl s)⟩

/-- Settles O60: the byte less one is stored, then the branch is `runs_updateAndBranch`. -/
theorem decrementJumps : Obligations.DecrementJumps := by
  intro s e hs
  refine ⟨fun n => ?register, fun d => ?direct⟩
  case register =>
    have hvalue : ((s.iramWrite (s.regAddr n) (s.regRead n - 1)).regRead n).toNat =
        ((s.regRead n).toNat + 255) % 256 := by
      rw [s.regRead_iramWrite_self n _ hs.iramWf, byte_pred_toNat]
    have hframe : Frame [] [] [s.regAddr n] [] s (s.iramWrite (s.regAddr n) (s.regRead n - 1)) :=
      frame_iramWrite s _ _ (by simp)
    exact runs_updateAndBranch rfl (execDjnzRn_eq n e s) rfl fun w hgoes =>
      ⟨hvalue, hgoes, hframe.trans (frame_jump _ w), rfl, rfl, rfl⟩
  case direct =>
    have hpc : ((s.dRead d).2.dWrite d ((s.dRead d).1 - 1)).pc = s.pc :=
      (State.dWrite_pc ..).trans (s.dRead_pc d)
    have hwritten : Claims.DirectWritten (s.dRead d).2 d ((s.dRead d).1 - 1)
        ((s.dRead d).2.dWrite d ((s.dRead d).1 - 1)) := directWritten_dWrite d _ (hs.dRead d).iramWf
    have hframe : Frame [] [] (Claims.cellsOf s d) [] s ((s.dRead d).2.dWrite d ((s.dRead d).1 - 1)) :=
      frame_dWrite_cellsOf (frame_dRead s d) _
    exact runs_updateAndBranch rfl (execDjnzDirect_eq d e s) hpc fun w hgoes =>
      ⟨hwritten, hgoes, hframe.trans (frame_jump _ w)⟩

end Sys2Proof.Proofs
end

section
/-! PROOFS. The status of a step (O6 to O9). Said once for every instruction in `exec_checkDecides`: its check alone
decides how it ends. A step adds the fetch, whose only fault is MemoryFault. -/
namespace Sys2Proof.Machine

variable {s t : State} {f : Fault} {i : Instr}

/-! ## The check decides the outcome -/

/-- The outcome is a next state if the check reports nothing, and the fault it reports otherwise
(`60_exceptions.md` R302, stage 3). -/
def CheckDecides (check : Option Fault) (r : Result) : Prop :=
  (check = none → ∃ t, r = .next t) ∧ ∀ f, check = some f → r = .fault f

theorem checkDecides_next : CheckDecides none (.next t) :=
  ⟨fun _ => ⟨t, rfl⟩, fun f h => absurd h.symm (Option.some_ne_none f)⟩

theorem checkDecides_fault : CheckDecides (some f) (.fault f) :=
  ⟨fun h => absurd h (Option.some_ne_none f), fun _ h => congrArg _ (Option.some.inj h)⟩

/-- A meaning that faults under the condition its check names, and else gives one next state. -/
theorem checkDecides_unless {c : Prop} [Decidable c] {check : Option Fault} {r : Result}
    (hr : r = if c then .fault f else .next t) (hcheck : check = if c then some f else none) :
    CheckDecides check r := by
  rw [hr, hcheck]
  split
  · exact checkDecides_fault
  · exact checkDecides_next

/-- An outcome decided by a check is a fault exactly when the check reports it. -/
theorem CheckDecides.eq_fault_iff {check : Option Fault} {r : Result} (h : CheckDecides check r) :
    r = .fault f ↔ check = some f := by
  obtain ⟨hnext, hfault⟩ := h
  refine ⟨fun hr => ?_, hfault f⟩
  cases hc : check with
  | none =>
    obtain ⟨t, ht⟩ := hnext hc
    cases hr.symm.trans ht
  | some g =>
    cases hr.symm.trans (hfault g hc)
    rfl

/-- An outcome decided by a check is never refused. -/
theorem CheckDecides.next_or_fault {check : Option Fault} {r : Result} (h : CheckDecides check r) :
    (∃ t, r = .next t) ∨ ∃ f, r = .fault f := by
  cases hc : check with
  | none => exact .inl (h.1 hc)
  | some f => exact .inr ⟨f, h.2 f hc⟩

/-- The checked instructions by their equations; MOVC's check writes its address as a number. JBC branches between
two next states, and every other meaning is one next state. -/
theorem exec_checkDecides (i : Instr) (s : State) : CheckDecides (i.check s) (exec i s) := by
  cases i with
  | reserved => exact checkDecides_fault
  | push d => exact checkDecides_unless (execPush_eq d s) rfl
  | pop d => exact checkDecides_unless (execPop_eq d s) rfl
  | acall a => exact checkDecides_unless (execAcall_eq a s) rfl
  | lcall a => exact checkDecides_unless (execLcall_eq a s) rfl
  | ret => exact checkDecides_unless (execRet_eq s) rfl
  | reti => exact checkDecides_unless (execReti_eq s) rfl
  | movcADptr => exact checkDecides_unless (execMovcADptr_eq s) (by rw [s.aPlusDptr_toNat]; rfl)
  | movcAPc => exact checkDecides_unless (execMovcAPc_eq s) (by rw [s.aPlusPc_toNat]; rfl)
  | movxAInd j => exact checkDecides_unless (execMovxAInd_eq j s) rfl
  | movxADptr => exact checkDecides_unless (execMovxADptr_eq s) rfl
  | movxIndA j => exact checkDecides_unless (execMovxIndA_eq j s) rfl
  | movxDptrA => exact checkDecides_unless (execMovxDptrA_eq s) rfl
  | jbc b e =>
    rw [show exec (.jbc b e) s = _ from execJbc_eq b e s]
    split <;> exact checkDecides_next
  | _ => exact checkDecides_next

/-! ## UnknownOpcode -/

/-- No other row of the table of stage 3 names UnknownOpcode. -/
theorem check_eq_unknownOpcode (h : i.check s = some .unknownOpcode) : i = .reserved := by
  cases i with
  | reserved => rfl
  | push | pop | acall | lcall | ret | reti | movcADptr | movcAPc | movxAInd | movxADptr | movxIndA | movxDptrA =>
    obtain ⟨-, hf⟩ := Option.ite_none_right_eq_some.1 h
    cases hf
  | _ => cases h

theorem exec_eq_unknownOpcode (h : exec i s = .fault .unknownOpcode) : i = .reserved :=
  check_eq_unknownOpcode ((exec_checkDecides i s).eq_fault_iff.1 h)

/-- The opcode byte of the reserved instruction is the one its encoding begins with (`30_encoding.md` R121). -/
theorem opcode_of_decodeBytes_eq_reserved {op b1 b2 : Byte} (h : decodeBytes op b1 b2 = .reserved) : op = 0xA5 := by
  have hbytes := encode_decodeBytes op b1 b2
  rw [h] at hbytes
  obtain ⟨n, hn⟩ := Nat.exists_eq_add_of_le' (opcodeLength_bounds op).1
  rw [hn, List.take_succ_cons] at hbytes
  exact (List.cons.inj hbytes).1.symm

theorem State.codeAtPc_reserved (hpc : s.pc.toNat < s.codeSize) (hop : s.code.read s.pc.toNat = 0xA5) :
    s.CodeAtPc (encode .reserved) := by
  intro k hk
  obtain rfl : k = 0 := Nat.lt_one_iff.1 hk
  exact (s.codeRead_ok_iff _ _).2 ⟨hpc, hop.symm⟩

/-! ## The outcome of a step -/

theorem step_of_fetch_error (h : s.fetch = .error f) : step s = .fault f := by rw [step, h, orRaise_error]

theorem step_of_fetch_ok (h : s.fetch = .ok i) : step s = exec i s := by rw [step, h, orRaise_ok]

/-- A step faults in its fetch, with MemoryFault, or is its instruction. -/
theorem step_cases (s : State) : step s = .fault .memoryFault ∨ ∃ i, s.fetch = .ok i ∧ step s = exec i s := by
  cases h : s.fetch with
  | error f =>
    obtain rfl := s.fetch_error f h
    exact .inl (step_of_fetch_error h)
  | ok i => exact .inr ⟨i, rfl, step_of_fetch_ok h⟩

theorem step_eq_unknownOpcode_iff (s : State) :
    step s = .fault .unknownOpcode ↔ s.pc.toNat < s.codeSize ∧ s.code.read s.pc.toNat = 0xA5 := by
  constructor
  · intro h
    obtain hfault | ⟨i, hfetch, hstep⟩ := step_cases s
    · cases h.symm.trans hfault
    · obtain rfl := exec_eq_unknownOpcode (hstep.symm.trans h)
      obtain ⟨op, b1, b2, hop, -, -, hi⟩ := (s.fetch_ok_iff _).1 hfetch
      obtain ⟨hpc, rfl⟩ := (s.codeRead_ok_iff _ _).1 hop
      exact ⟨hpc, opcode_of_decodeBytes_eq_reserved hi.symm⟩
  · rintro ⟨hpc, hop⟩
    exact step_of_codeAtPc_encode (State.codeAtPc_reserved hpc hop)

theorem step_next_or_fault (s : State) : (∃ t, step s = .next t) ∨ ∃ f, step s = .fault f := by
  obtain hfault | ⟨i, -, hstep⟩ := step_cases s
  · exact .inr ⟨_, hfault⟩
  · rw [hstep]
    exact (exec_checkDecides i s).next_or_fault

end Sys2Proof.Machine

namespace Sys2Proof.Proofs
open Sys2Proof.Machine

/-- Settles O7: `exec_checkDecides`. -/
theorem execCompletesUnlessItsCheckFails : Obligations.ExecCompletesUnlessItsCheckFails := exec_checkDecides

/-- Settles O6: the fetch by `State.fetch_spec`, opcode 0xA5 by `step_eq_unknownOpcode_iff`, and the fetched
instruction by its check. -/
theorem stepStatusFollowsTheCheckOrder : Obligations.StepStatusFollowsTheCheckOrder := by
  intro s
  obtain ⟨hopcodeOut, hopcodeIn⟩ := s.fetch_spec
  refine ⟨fun hpc => step_of_fetch_error (hopcodeOut hpc), fun hpc => ?_⟩
  obtain ⟨hoperandOut, hoperandIn⟩ := hopcodeIn hpc
  refine ⟨fun h => step_of_fetch_error (hoperandOut h), fun h => ?_⟩
  obtain ⟨b1, b2, hfetch⟩ := hoperandIn h
  have hstep := step_of_fetch_ok hfetch
  obtain ⟨hcompletes, hfaults⟩ := exec_checkDecides (decodeBytes (s.code.read s.pc.toNat) b1 b2) s
  rw [← hstep] at hcompletes hfaults
  exact ⟨fun hop => (step_eq_unknownOpcode_iff s).2 ⟨hpc, hop⟩, b1, b2, hstep, hfaults, hcompletes⟩

/-- Settles O8: `step_eq_unknownOpcode_iff`; the reserved form is one byte and one `raise`. -/
theorem unknownOpcodeOnlyFromA5 : Obligations.UnknownOpcodeOnlyFromA5 :=
  ⟨step_eq_unknownOpcode_iff, rfl, fun _ => rfl⟩

/-- Settles O9: a step gives a next state or a fault, and either has its code. -/
theorem everyStepHasOneOfFiveStatuses : Obligations.EveryStepHasOneOfFiveStatuses := by
  refine ⟨⟨rfl, rfl, rfl, rfl⟩, fun s => ?_⟩
  obtain ⟨t, ht⟩ | ⟨f, hf⟩ := step_next_or_fault s
  · exact .inl ⟨t, ht, congrArg statusCode ht⟩
  · exact .inr ⟨f, hf, congrArg statusCode hf⟩

end Sys2Proof.Proofs
end

section
/-! PROOFS. Reset (O10, O11): the registers take their reset values, IRAM is replaced, and what belongs to the
platform stays. -/
namespace Sys2Proof.Machine

theorem windowSet_nil : windowSet [] := ⟨.nil, List.forall_mem_nil _⟩

/-- Nothing is listed and nothing is registered; both sizes are the largest a platform may choose. -/
theorem State.reset_legal : State.reset.Legal :=
  ⟨⟨Memory.wf_nil, Memory.below_nil _⟩,
    ⟨Memory.wf_nil, Memory.below_nil _, by decide, le_rfl⟩,
    ⟨Memory.wf_nil, Memory.below_nil _, le_rfl⟩,
    windowSet_nil, windowSet_nil⟩

/-- Of what legality speaks of, reset replaces IRAM alone. -/
theorem State.Legal.applyReset {s : State} {iram : Memory} (h : s.Legal)
    (hi : iram.wf ∧ iram.below Config.iramSize) : (s.applyReset iram).Legal := by
  have ⟨_, _, ⟨hwf, hbelow, _⟩, _⟩ := h
  exact h.of_memories hi ⟨hwf, hbelow⟩ rfl rfl rfl rfl rfl

end Sys2Proof.Machine

namespace Sys2Proof.Proofs
open Sys2Proof.Machine

/-- Settles O10: `State.applyReset` gives PC, A, B, PSW, SP and DPTR their reset values and keeps the platform's six
fields; `State.reset` has those register values already. -/
theorem resetGivesTheResetValues : Obligations.ResetGivesTheResetValues := by
  refine ⟨fun iram s => ⟨s.applyReset iram, rfl, ?registers⟩, ?resetOfItself⟩
  case registers =>
    refine ⟨rfl, rfl, rfl, rfl, rfl, rfl, ?platform⟩
    case platform => exact ⟨rfl, rfl, rfl, rfl, rfl, rfl⟩
  case resetOfItself => rfl

/-- Settles O11: `State.reset_legal`, and on a legal platform `State.Legal.applyReset`. -/
theorem resetStatesAreLegal : Obligations.ResetStatesAreLegal :=
  ⟨State.reset_legal, fun _ _ hs hwf hbelow => hs.applyReset ⟨hwf, hbelow⟩⟩

end Sys2Proof.Proofs
end
